-- ==== Sys2Proof/Word.lean ====
section
/-! DEFINITION. The unit of every memory of the KG codec core: the byte (20_memory R60, R65). -/

namespace Sys2Proof

/-- A byte of STREAM, CANVAS or OUT, and the element of a dictionary slot (R30, R60). -/
abbrev Byte := BitVec 8

end Sys2Proof
end

