-- ==== Sys2Proof/Config.lean ====
section
/-! DEFINITION. What the spec leaves to the environment as a value: the contents of memory that nothing has written,
and what a host read gives where the spec promises no value. All are opaque: no proof can see a value of theirs (00_scope R6
`canvas_init`, 92 D6; log entries 2, 8 and 23). -/

namespace Sys2Proof

/-- `canvas_init` (00_scope R6, 10_state R23, 93 U10): the byte that CANVAS holds at an offset nothing has written.
A free value: the same at every read of one offset (20_memory R66), otherwise unconstrained. -/
opaque Config.canvasInit : Nat → Byte

/-- The byte that STREAM holds at an index the host has not filled (10_state R22, R38: unspecified; 60_exceptions R270:
a CFG_SLEN larger than the filled memory cannot be detected by the core). A free value. -/
opaque Config.streamInit : Nat → Byte

/-- What a host read gives where the spec promises no value: anything but PHASE and FAULTCODE while a pass runs (20_memory
R71, 70_reset R298), and the canvas and the dictionary after FAULT (60_exceptions R268, 92 D26, 93 U5). A free value of
whatever the read depends on (log entries 8 and 23). -/
opaque Config.hidden {α β : Type} [Inhabited β] : α → β

end Sys2Proof
end

