-- ==== Sys2Proof/Syntax.lean ====
section
/-! DEFINITION. The operations of the compressed stream (30_encoding R105): one constructor of `Instr` per row of
spec/opcode_table.json, each carrying exactly the fields of its row. -/

namespace Sys2Proof

/-- The five copy opcodes of 30_encoding R91 (numbers 2, 12, 13, 14, 15). -/
inductive CopyOp where
  | cprev
  | cup
  | cupr
  | cupl
  | cprev2
  deriving DecidableEq, Repr

/-- A run count in one of the five varint forms, with the field the form carries (30_encoding R98). -/
inductive Run where
  | v2 (a : BitVec 2)
  | v6 (b : BitVec 4)
  | v14 (c : BitVec 8)
  | v30 (d : BitVec 16)
  | v62 (h l : BitVec 16)
  deriving DecidableEq, Repr

/-- The two parts of a stream (30_encoding R90): the raw bytes at its head, and the operations after them. The part,
not a bit pattern, selects `RAW` (R94). -/
inductive StreamPart where
  | rawBytes
  | operations
  deriving DecidableEq, Repr

/-- An operation of the stream, one constructor per row of the opcode table. -/
inductive Instr where
  | raw (v : Byte)
  | lit (v : Byte)
  | dic (s : BitVec 3)
  | cprevV2 (a : BitVec 2)
  | cprevV6 (b : BitVec 4)
  | cprevV14 (c : BitVec 8)
  | cprevV30 (d : BitVec 16)
  | cprevV62 (h l : BitVec 16)
  | cupV2 (a : BitVec 2)
  | cupV6 (b : BitVec 4)
  | cupV14 (c : BitVec 8)
  | cupV30 (d : BitVec 16)
  | cupV62 (h l : BitVec 16)
  | cuprV2 (a : BitVec 2)
  | cuprV6 (b : BitVec 4)
  | cuprV14 (c : BitVec 8)
  | cuprV30 (d : BitVec 16)
  | cuprV62 (h l : BitVec 16)
  | cuplV2 (a : BitVec 2)
  | cuplV6 (b : BitVec 4)
  | cuplV14 (c : BitVec 8)
  | cuplV30 (d : BitVec 16)
  | cuplV62 (h l : BitVec 16)
  | cprev2V2 (a : BitVec 2)
  | cprev2V6 (b : BitVec 4)
  | cprev2V14 (c : BitVec 8)
  | cprev2V30 (d : BitVec 16)
  | cprev2V62 (h l : BitVec 16)
  deriving DecidableEq, Repr

/-- The copy operation with opcode `op` and run count `r` (format `CPY`, 30_encoding R97). -/
def Instr.copy (op : CopyOp) (r : Run) : Instr :=
  match op, r with
  | .cprev, .v2 a => .cprevV2 a
  | .cprev, .v6 b => .cprevV6 b
  | .cprev, .v14 c => .cprevV14 c
  | .cprev, .v30 d => .cprevV30 d
  | .cprev, .v62 h l => .cprevV62 h l
  | .cup, .v2 a => .cupV2 a
  | .cup, .v6 b => .cupV6 b
  | .cup, .v14 c => .cupV14 c
  | .cup, .v30 d => .cupV30 d
  | .cup, .v62 h l => .cupV62 h l
  | .cupr, .v2 a => .cuprV2 a
  | .cupr, .v6 b => .cuprV6 b
  | .cupr, .v14 c => .cuprV14 c
  | .cupr, .v30 d => .cuprV30 d
  | .cupr, .v62 h l => .cuprV62 h l
  | .cupl, .v2 a => .cuplV2 a
  | .cupl, .v6 b => .cuplV6 b
  | .cupl, .v14 c => .cuplV14 c
  | .cupl, .v30 d => .cuplV30 d
  | .cupl, .v62 h l => .cuplV62 h l
  | .cprev2, .v2 a => .cprev2V2 a
  | .cprev2, .v6 b => .cprev2V6 b
  | .cprev2, .v14 c => .cprev2V14 c
  | .cprev2, .v30 d => .cprev2V30 d
  | .cprev2, .v62 h l => .cprev2V62 h l

/-- The part of a stream in which an operation stands: `RAW` in the phase PREFIX, every other one in LOOP (R106). -/
def Instr.part : Instr → StreamPart
  | .raw _ => .rawBytes
  | .lit _ | .dic _
  | .cprevV2 _ | .cprevV6 _ | .cprevV14 _ | .cprevV30 _ | .cprevV62 _ _
  | .cupV2 _ | .cupV6 _ | .cupV14 _ | .cupV30 _ | .cupV62 _ _
  | .cuprV2 _ | .cuprV6 _ | .cuprV14 _ | .cuprV30 _ | .cuprV62 _ _
  | .cuplV2 _ | .cuplV6 _ | .cuplV14 _ | .cuplV30 _ | .cuplV62 _ _
  | .cprev2V2 _ | .cprev2V6 _ | .cprev2V14 _ | .cprev2V30 _ | .cprev2V62 _ _ => .operations

end Sys2Proof
end

