-- ==== Sys2Proof/WellFormed.lean ====
section
/-! DEFINITION. The constraints of the opcode table: the non-zero conditions that keep the varint forms apart
(30_encoding R98, R106). A pattern whose condition fails is the escape to the next longer form. -/

namespace Sys2Proof

/-- The condition of a varint form on its own field (30_encoding R98); `V62` has none, it may even spell 0 (R102). -/
def Run.wellFormed : Run → Bool
  | .v2 a => a != 0
  | .v6 b => b != 0
  | .v14 c => c != 0
  | .v30 d => d != 0
  | .v62 _ _ => true

/-- The constraint of an operation's row in the opcode table. -/
def Instr.wellFormed : Instr → Bool
  | .raw _ | .lit _ | .dic _ => true
  | .cprevV2 a => Run.wellFormed (.v2 a)
  | .cprevV6 b => Run.wellFormed (.v6 b)
  | .cprevV14 c => Run.wellFormed (.v14 c)
  | .cprevV30 d => Run.wellFormed (.v30 d)
  | .cprevV62 h l => Run.wellFormed (.v62 h l)
  | .cupV2 a => Run.wellFormed (.v2 a)
  | .cupV6 b => Run.wellFormed (.v6 b)
  | .cupV14 c => Run.wellFormed (.v14 c)
  | .cupV30 d => Run.wellFormed (.v30 d)
  | .cupV62 h l => Run.wellFormed (.v62 h l)
  | .cuprV2 a => Run.wellFormed (.v2 a)
  | .cuprV6 b => Run.wellFormed (.v6 b)
  | .cuprV14 c => Run.wellFormed (.v14 c)
  | .cuprV30 d => Run.wellFormed (.v30 d)
  | .cuprV62 h l => Run.wellFormed (.v62 h l)
  | .cuplV2 a => Run.wellFormed (.v2 a)
  | .cuplV6 b => Run.wellFormed (.v6 b)
  | .cuplV14 c => Run.wellFormed (.v14 c)
  | .cuplV30 d => Run.wellFormed (.v30 d)
  | .cuplV62 h l => Run.wellFormed (.v62 h l)
  | .cprev2V2 a => Run.wellFormed (.v2 a)
  | .cprev2V6 b => Run.wellFormed (.v6 b)
  | .cprev2V14 c => Run.wellFormed (.v14 c)
  | .cprev2V30 d => Run.wellFormed (.v30 d)
  | .cprev2V62 h l => Run.wellFormed (.v62 h l)

/-- An operation the opcode table lists. -/
abbrev WellFormed (i : Instr) : Prop := i.wellFormed = true

end Sys2Proof
end

