-- ==== Sys2Proof/Decode.lean ====
section
/-! DEFINITION. The operation decoder of 30_encoding R92 and 41_varint R140, written once over any source of bits: the
machine runs it over the Bit Reader registers (Machine/Fetch.lean), `decode` over a list of bits. After it, the encoder
of the same encodings (R94 to R98). The decoder is total; it rejects only by TruncatedStream, since no bit pattern is
illegal (R100). -/

namespace Sys2Proof

/-! ## Bits, most significant first (00_scope R9, 20_memory R61, R62) -/

/-- The low `n` bits of `v`, most significant first: the order in which `writeBits(v, n)` sends them (R125). -/
def natBits : (n v : Nat) → List Bool
  | 0, _ => []
  | n + 1, v => v.testBit n :: natBits n v

/-- The unsigned number spelled by a list of bits whose first bit is the most significant (R120: `v <- (v << 1) | bit`). -/
def bitsToNat (bits : List Bool) : Nat :=
  bits.foldl (fun v b => 2 * v + b.toNat) 0

/-- The bits of an `n`-bit field in stream order. -/
def field (v : BitVec n) : List Bool := natBits n v.toNat

/-- The bits of a byte sequence in stream order: bit 7 of the first byte first (R61). -/
def bytesToBits (bytes : List Byte) : List Bool := bytes.flatMap field

/-- The bytes of a bit string, the last one completed with zero bits at its low end (R90, R126). -/
def bitsToBytes (bits : List Bool) : List Byte :=
  (List.range ((bits.length + 7) / 8)).map fun k =>
    BitVec.ofNat 8 (bitsToNat ((bits.drop (8 * k)).take 8 ++ List.replicate (8 - (bits.drop (8 * k)).length) false))

/-! ## A source of bits -/

/-- The result of reading from a source: the value and the source after it, or, where the bits ran out, the source as
the failing read found it (R124: nothing is consumed by the failing read itself). -/
abbrev Reading (σ α : Type) := Except σ (α × σ)

/-- The widths with which `readBits` can be called (40_bit_primitives R123, 92 D24). A read takes a proof of it, so a call with
another width is refused when it is written down (log entry 19). -/
abbrev ReadWidth (n : Nat) : Prop := n ∈ [1, 2, 3, 4, 8, 16]

/-- What the decoder needs of the thing it reads from: `readBits(n)`, and the registers OPC and FLAG it fills on the way
(10_state R29). -/
structure BitSource (σ : Type) where
  read : (n : Nat) → ReadWidth n → σ → Reading σ (BitVec n)
  setOpc : BitVec 4 → σ → σ
  setFlag : BitVec 1 → σ → σ

/-- Go on reading after a successful read; a read that ran out of bits ends everything (60_exceptions R266). -/
def Reading.andThen {σ α β : Type} (r : Reading σ α) (k : α → σ → Reading σ β) : Reading σ β :=
  match r with
  | .ok (a, s) => k a s
  | .error s => .error s

/-- A list of bits as a source, the next bit first. It has no registers. -/
def listSource : BitSource (List Bool) where
  read n _ bits :=
    if bits.length < n then .error bits
    else .ok (BitVec.ofNat n (bitsToNat (bits.take n)), bits.drop n)
  setOpc _ bits := bits
  setFlag _ bits := bits

/-! ## The decoder -/

/-- `decodeVarint()` (41_varint R140), keeping the form in which the run count was spelled (30_encoding R98). -/
def decodeRun (src : BitSource σ) (s : σ) : Reading σ Run :=
  (src.read 2 (by decide) s).andThen fun a s =>
  if a ≠ 0 then .ok (.v2 a, s) else
  (src.read 4 (by decide) s).andThen fun b s =>
  if b ≠ 0 then .ok (.v6 b, s) else
  (src.read 8 (by decide) s).andThen fun c s =>
  if c ≠ 0 then .ok (.v14 c, s) else
  (src.read 16 (by decide) s).andThen fun d s =>
  if d ≠ 0 then .ok (.v30 d, s) else
  (src.read 16 (by decide) s).andThen fun h s =>
  (src.read 16 (by decide) s).andThen fun l s =>
  .ok (.v62 h l, s)

/-- The opcode number of a copy (30_encoding R91). -/
def CopyOp.opcode : CopyOp → BitVec 4
  | .cprev => 2
  | .cup => 12
  | .cupr => 13
  | .cupl => 14
  | .cprev2 => 15

/-- A copy whose opcode prefix has been read: OPC, then the run count (30_encoding R92, R97). -/
def decodeCopy (src : BitSource σ) (op : CopyOp) (s : σ) : Reading σ Instr :=
  (decodeRun src (src.setOpc op.opcode s)).andThen fun r s => .ok (.copy op r, s)

/-- The copy opcode whose last two bits are `t` (30_encoding R92: opcode 12 + t). -/
def longCopyOp (t : BitVec 2) : CopyOp :=
  if t = 0 then .cup else if t = 1 then .cupr else if t = 2 then .cupl else .cprev2

/-- Opcode prefix decoding and dispatch (30_encoding R92, 43_decoder_ops R184): one operation of the main loop. -/
def decodeOp (src : BitSource σ) (s : σ) : Reading σ Instr :=
  (src.read 1 (by decide) s).andThen fun b s =>
  if b = 0 then
    (src.read 1 (by decide) (src.setOpc 0 s)).andThen fun f s =>
    let s := src.setFlag f s
    if f = 1 then (src.read 8 (by decide) s).andThen fun v s => .ok (.lit v, s)
    else (src.read 3 (by decide) s).andThen fun k s => .ok (.dic k, s)
  else
    (src.read 1 (by decide) s).andThen fun b s =>
    if b = 0 then decodeCopy src .cprev s
    else
      (src.read 2 (by decide) s).andThen fun t s =>
      decodeCopy src (longCopyOp t) s

/-- A byte of the literal prefix (30_encoding R94): 8 bits, no opcode. -/
def decodeRaw (src : BitSource σ) (s : σ) : Reading σ Instr :=
  (src.read 8 (by decide) s).andThen fun v s => .ok (.raw v, s)

/-- The operation that starts at the next bit, in the given part of the stream. -/
def decodePart (src : BitSource σ) (part : StreamPart) (s : σ) : Reading σ Instr :=
  match part with
  | .rawBytes => decodeRaw src s
  | .operations => decodeOp src s

/-- Why a bit string is rejected. -/
inductive Reject where
  /-- The bits end before the operation does (60_exceptions R260, R261). -/
  | truncatedStream
  deriving DecidableEq, Repr

/-- The operation at the head of a bit string, and the bits after it. -/
def decode (part : StreamPart) (bits : List Bool) : Except Reject (Instr × List Bool) :=
  match decodePart listSource part bits with
  | .ok r => .ok r
  | .error _ => .error .truncatedStream

/-- The operation at the head of a byte sequence, and the bits after it: total on any bytes. -/
def decodeBytes (part : StreamPart) (bytes : List Byte) : Except Reject (Instr × List Bool) :=
  decode part (bytesToBits bytes)

/-! ## The encoder of operations -/

/-- The opcode prefix of a copy, as the number and the width that `writeBits` takes (30_encoding R91, 44_encoder R226). -/
def CopyOp.code : CopyOp → Nat × Nat
  | .cprev => (0b10, 2)
  | .cup => (0b1100, 4)
  | .cupr => (0b1101, 4)
  | .cupl => (0b1110, 4)
  | .cprev2 => (0b1111, 4)

/-- The opcode prefix of a copy in stream order (30_encoding R91). -/
def CopyOp.bits (op : CopyOp) : List Bool := natBits op.code.2 op.code.1

/-- The bits of a run count in its form (30_encoding R98): each longer form starts with the zero fields of the shorter. -/
def Run.bits : Run → List Bool
  | .v2 a => field a
  | .v6 b => field (0 : BitVec 2) ++ field b
  | .v14 c => field (0 : BitVec 2) ++ field (0 : BitVec 4) ++ field c
  | .v30 d => field (0 : BitVec 2) ++ field (0 : BitVec 4) ++ field (0 : BitVec 8) ++ field d
  | .v62 h l =>
    field (0 : BitVec 2) ++ field (0 : BitVec 4) ++ field (0 : BitVec 8) ++ field (0 : BitVec 16) ++ field h ++ field l

/-- The bits of an operation in stream order (30_encoding R94 to R97). -/
def encode : Instr → List Bool
  | .raw v => field v
  | .lit v => [false, true] ++ field v
  | .dic s => [false, false] ++ field s
  | .cprevV2 a => CopyOp.cprev.bits ++ Run.bits (.v2 a)
  | .cprevV6 b => CopyOp.cprev.bits ++ Run.bits (.v6 b)
  | .cprevV14 c => CopyOp.cprev.bits ++ Run.bits (.v14 c)
  | .cprevV30 d => CopyOp.cprev.bits ++ Run.bits (.v30 d)
  | .cprevV62 h l => CopyOp.cprev.bits ++ Run.bits (.v62 h l)
  | .cupV2 a => CopyOp.cup.bits ++ Run.bits (.v2 a)
  | .cupV6 b => CopyOp.cup.bits ++ Run.bits (.v6 b)
  | .cupV14 c => CopyOp.cup.bits ++ Run.bits (.v14 c)
  | .cupV30 d => CopyOp.cup.bits ++ Run.bits (.v30 d)
  | .cupV62 h l => CopyOp.cup.bits ++ Run.bits (.v62 h l)
  | .cuprV2 a => CopyOp.cupr.bits ++ Run.bits (.v2 a)
  | .cuprV6 b => CopyOp.cupr.bits ++ Run.bits (.v6 b)
  | .cuprV14 c => CopyOp.cupr.bits ++ Run.bits (.v14 c)
  | .cuprV30 d => CopyOp.cupr.bits ++ Run.bits (.v30 d)
  | .cuprV62 h l => CopyOp.cupr.bits ++ Run.bits (.v62 h l)
  | .cuplV2 a => CopyOp.cupl.bits ++ Run.bits (.v2 a)
  | .cuplV6 b => CopyOp.cupl.bits ++ Run.bits (.v6 b)
  | .cuplV14 c => CopyOp.cupl.bits ++ Run.bits (.v14 c)
  | .cuplV30 d => CopyOp.cupl.bits ++ Run.bits (.v30 d)
  | .cuplV62 h l => CopyOp.cupl.bits ++ Run.bits (.v62 h l)
  | .cprev2V2 a => CopyOp.cprev2.bits ++ Run.bits (.v2 a)
  | .cprev2V6 b => CopyOp.cprev2.bits ++ Run.bits (.v6 b)
  | .cprev2V14 c => CopyOp.cprev2.bits ++ Run.bits (.v14 c)
  | .cprev2V30 d => CopyOp.cprev2.bits ++ Run.bits (.v30 d)
  | .cprev2V62 h l => CopyOp.cprev2.bits ++ Run.bits (.v62 h l)

/-- The shortest form that holds a run count (41_varint R141): the form of the encoder; 0 takes `V62`. -/
def canonicalRun (v : Nat) : Run :=
  if 1 ≤ v ∧ v ≤ 3 then .v2 (BitVec.ofNat 2 v)
  else if 4 ≤ v ∧ v ≤ 18 then .v6 (BitVec.ofNat 4 (v - 3))
  else if 19 ≤ v ∧ v ≤ 255 then .v14 (BitVec.ofNat 8 v)
  else if 256 ≤ v ∧ v ≤ 65535 then .v30 (BitVec.ofNat 16 v)
  else .v62 (BitVec.ofNat 16 (v >>> 16)) (BitVec.ofNat 16 v)

/-! ## Words of the opcode table -/

/-- The fixed bits of a table row, read as one number (98_reader): the row's length, how many of its low bits are free,
and the value of the fixed bits above them. -/
structure TableRow where
  length : Nat
  free : Nat
  fixed : Nat

/-- The 27 rows of spec/opcode_table.json that have fixed bits, in the table's order; `RAW` has none. -/
def tableRows : List TableRow :=
  [⟨10, 8, 0b01⟩, ⟨5, 3, 0b00⟩] ++
  [CopyOp.cprev, .cup, .cupr, .cupl, .cprev2].flatMap fun op =>
    let (code, n) := op.code
    [⟨n + 2, 2, code⟩, ⟨n + 6, 4, code * 2 ^ 2⟩, ⟨n + 14, 8, code * 2 ^ 6⟩, ⟨n + 30, 16, code * 2 ^ 14⟩,
     ⟨n + 62, 32, code * 2 ^ 30⟩]

/-- The length of the row that a table word of `nbits` bits (in whole bytes) fits: the fixed bits agree, and the row
rounded up to whole bytes has `nbits` bits. The rows' right-aligned numbers are disjoint within one `nbits`. -/
def tableLength (nbits w : Nat) : Option Nat :=
  (tableRows.find? fun r => (r.length + 7) / 8 * 8 == (nbits + 7) / 8 * 8 && w / 2 ^ r.free == r.fixed).map (·.length)

/-- The longest operation, in bits (30_encoding R99). -/
def longestOp : Nat := 66

/-- The part and the stream bits of a table word: the row's bits, most significant first, then zeros. A word that fits no
row with fixed bits is a `RAW` byte (log entry 12). -/
def tableWordBits (nbits w : Nat) : StreamPart × List Bool :=
  match tableLength nbits w with
  | some n => (.operations, natBits n w ++ List.replicate (longestOp - n) false)
  | none => (.rawBytes, natBits 8 w ++ List.replicate (longestOp - 8) false)

/-- The instruction the decoder reads from a word numbered as the opcode table numbers it. -/
def decodeTableWord (nbits w : Nat) : Option Instr :=
  match decode (tableWordBits nbits w).1 (tableWordBits nbits w).2 with
  | .ok (i, _) => some i
  | .error _ => none

end Sys2Proof
end

