-- ==== Sys2Proof/Machine/State.lean ====
section
/-! DEFINITION. The state of the KG codec core (10_state R20 to R33), its reset value (R38, 70_reset R290), and the
reasons a step can stop. -/

namespace Sys2Proof.Machine

/-- The pass that START begins (10_state R20, CFG_MODE: 0 = DECODE, 1 = ENCODE). -/
inductive Mode where
  | decode
  | encode
  deriving DecidableEq, Repr

/-- PHASE, the coarse state of the block (10_state R31): IDLE, PREFIX, LOOP, DONE, FAULT. -/
inductive Phase where
  | idle
  | litPrefix
  | mainLoop
  | done
  | fault
  deriving DecidableEq, Repr

/-- FAULTCODE (10_state R32): none, TruncatedStream, CanvasOverrun. -/
inductive FaultCode where
  | none
  | truncatedStream
  | canvasOverrun
  deriving DecidableEq, Repr

/-- A byte memory: the written bytes with their addresses, addresses strictly rising (`Memory.wf` in Machine/Ops.lean). An
unlisted address holds no known byte (log entry 2). -/
abbrev Memory := List Host.Cell

/-- One list of the Dictionary Cache: 8 byte slots, slot 0 the most recently used (42_dictionary_cache R160). -/
abbrev DictList := Vector Byte 8

/-- The Dictionary Cache register file: 256 lists, one per reference byte (10_state R30). -/
abbrev Dict := Vector DictList 256

/-- The whole machine: plain data. Positions are natural numbers (00_scope R8, 92 D11; log entry 1); registers that hold
bits have the widths of 10_state. BP, the program counter, is a view (`State.bitPos`), as are P, L, SIZE, NPRE. -/
structure State where
  /-- CFG_WIDTH (R20). -/
  cfgWidth : BitVec 16
  /-- CFG_HEIGHT (R20). -/
  cfgHeight : BitVec 16
  /-- CFG_BPP, the bytes per pixel `P` (R20). -/
  cfgBpp : BitVec 2
  /-- CFG_MODE (R20). -/
  cfgMode : Mode
  /-- CFG_SLEN, the number of stream bytes the Bit Reader may touch (R20). -/
  cfgSlen : BitVec 32
  /-- CTRL.START, the command bit: up while the host's write of START is being consumed (R33; log entry 4). -/
  ctrlStart : Bool
  /-- PHASE (R31). -/
  phase : Phase
  /-- FAULTCODE (R32). -/
  faultCode : FaultCode
  /-- STREAM, the compressed stream memory (R22). -/
  stream : Memory
  /-- CANVAS, the pixel canvas memory (R23). -/
  canvas : Memory
  /-- OUT, the encoder's output stream (R24). -/
  out : Memory
  /-- CUR, the canvas cursor (R25). -/
  cur : Nat
  /-- SPOS, the index of the next unread stream byte (R26). -/
  spos : Nat
  /-- BITCNT, the number of bits held in BITBUF (R26). -/
  bitCnt : BitVec 3
  /-- BITBUF, the bits fetched and not yet consumed (R26). -/
  bitBuf : BitVec 7
  /-- WACC, the bits written since the last completed byte (R28). -/
  wAcc : BitVec 8
  /-- WCNT, the number of valid bits in WACC (R28). -/
  wCnt : BitVec 3
  /-- OLEN, the number of bytes appended to OUT (R28). -/
  olen : Nat
  /-- DICT (R30). -/
  dict : Dict
  /-- OPC, transient: the opcode number just decoded (R29; log entry 11). -/
  opc : BitVec 4
  /-- FLAG, transient: the flag of opcode 0 (R29). -/
  flag : BitVec 1
  /-- SLOT, transient: the slot index of a DIC (R29). -/
  slot : BitVec 3
  /-- VAL, transient: the byte a RAW, LIT or DIC writes (R29). -/
  val : Byte
  /-- REF, transient: the reference byte (R29). -/
  ref : Byte
  /-- LEN, transient: the run length of a copy (R29). -/
  len : BitVec 32
  /-- W, transient: CUR before a copy (R29). -/
  w : Nat
  /-- SRC, transient: the source offset of a copy (R29). -/
  src : Nat
  deriving DecidableEq, Repr

/-- Power-on reset (10_state R38, 70_reset R290): PHASE is IDLE and FAULTCODE is 0, as the spec states. Everything else the
spec leaves unspecified: the values here are the model's (log entry 3, DESIGN CHOICE, unsafe); the memories list nothing. -/
def State.reset : State where
  cfgWidth := 0
  cfgHeight := 0
  cfgBpp := 0
  cfgMode := .decode
  cfgSlen := 0
  ctrlStart := false
  phase := .idle
  faultCode := .none
  stream := []
  canvas := []
  out := []
  cur := 0
  spos := 0
  bitCnt := 0
  bitBuf := 0
  wAcc := 0
  wCnt := 0
  olen := 0
  dict := Vector.replicate 256 #v[0, 0, 0, 0, 0, 0, 0, 0]
  opc := 0
  flag := 0
  slot := 0
  val := 0
  ref := 0
  len := 0
  w := 0
  src := 0

/-- Why a step stops. The spec's own faults are not here: entering the phase FAULT is a next state (60_exceptions R267). -/
inductive Fault where
  /-- Raised by RAW, LIT, DIC and a copy in a state where the canvas offset `a` they would access is not below SIZE. The
  spec says such an access is never performed (20_memory R67, 00_scope R10), and no pass reaches such a state. Safe: the
  model stops (log entry 7). -/
  | canvasOutside (a : Nat)
  /-- Raised by LIT, DIC, CPREV and the encoder's literal path in a state where CUR is below P, so that CUR - P is no canvas
  offset (20_memory R67). No pass reaches such a state (10_state R34). Safe (log entry 7). -/
  | belowCanvas
  deriving DecidableEq, Repr

/-- Why an instruction or a host access has no meaning. -/
inductive Refusal where
  /-- Raised by `exec` for an instruction that has no meaning yet. Safe. -/
  | notModelled (mnemonic : String)
  /-- Raised by the host port for a write of configuration or memory between START and the end of the pass: the spec gives such
  a pass no meaning and has a model refuse it (93 U12, 70_reset R294, R295). Safe (log entry 13). -/
  | hostWriteDuringPass
  deriving DecidableEq, Repr

end Sys2Proof.Machine
end

