-- ==== Sys2Proof/Machine/Ops.lean ====
section
/-! DEFINITION. The named operations of the machine: memory, the constants of a pass, the Bit Reader and Writer, the
Dictionary Cache, the end of a step, fault entry and START. Every meaning is written over these. -/

namespace Sys2Proof.Machine

/-! ## Byte memories (20_memory R60, R65) -/

/-- The byte written last at `a`, if any was. -/
def Memory.read? : Memory → Nat → Option Byte
  | [], _ => none
  | (b, x) :: m, a => if a = b then some x else Memory.read? m a

/-- Write one byte, keeping the addresses strictly rising. -/
def Memory.write : Memory → Nat → Byte → Memory
  | [], a, v => [(a, v)]
  | (b, x) :: m, a, v =>
    if a < b then (a, v) :: (b, x) :: m
    else if a = b then (a, v) :: m
    else (b, x) :: Memory.write m a v

/-- Write a byte sequence at rising addresses from `a`. -/
def Memory.writeBytes : Memory → Nat → List Byte → Memory
  | m, _, [] => m
  | m, a, v :: vs => Memory.writeBytes (Memory.write m a v) (a + 1) vs

/-- The canonical form of a memory: addresses strictly rising, so that a byte is listed once. -/
abbrev Memory.wf (m : Memory) : Prop := m.Pairwise fun x y => x.1 < y.1

/-- `S[a]` (00_scope R10): what the host filled in, or the free value of an index it did not fill. -/
def State.streamByte (s : State) (a : Nat) : Byte := (Memory.read? s.stream a).getD (Config.streamInit a)

/-- The byte a canvas memory holds at `a`: what was written last, or `canvas_init` (10_state R23). -/
def canvasAt (c : Memory) (a : Nat) : Byte := (Memory.read? c a).getD (Config.canvasInit a)

/-- `C[a]` (00_scope R10). -/
def State.canvasByte (s : State) (a : Nat) : Byte := canvasAt s.canvas a

/-! ## The constants of a pass (10_state R21) -/

/-- `P`, bytes per pixel. -/
def State.bpp (s : State) : Nat := s.cfgBpp.toNat

/-- `L`, the line byte width. -/
def State.lineBytes (s : State) : Nat := s.cfgWidth.toNat * s.bpp

/-- `NPIX`, the pixel count. -/
def State.pixels (s : State) : Nat := s.cfgWidth.toNat * s.cfgHeight.toNat

/-- `SIZE`, the canvas size in bytes. -/
def State.size (s : State) : Nat := s.cfgWidth.toNat * s.cfgHeight.toNat * s.bpp

/-- `NPRE`, the number of literal prefix bytes. -/
def State.prefixBytes (s : State) : Nat := min (2 * s.bpp) s.size

/-- `SLEN`, the number of stream bytes. -/
def State.streamLen (s : State) : Nat := s.cfgSlen.toNat

/-- The configuration that START accepts (10_state R20, 60_exceptions R270). -/
def State.configLegal (s : State) : Bool := s.cfgBpp == 1 || s.cfgBpp == 3

/-- A pass is running: PHASE is PREFIX or LOOP (10_state R33). -/
def State.running (s : State) : Bool := s.phase == .litPrefix || s.phase == .mainLoop

/-- A pass runs, or the START that begins one is being consumed: the time from START to the end of the pass, in which the host
may only read PHASE (60_exceptions R274, 70_reset R294, R295). -/
def State.busy (s : State) : Bool := s.running || s.ctrlStart

/-! ## The Bit Reader (40_bit_primitives R120, R121) -/

/-- `BP`, the program counter: the number of stream bits already consumed (10_state R27). -/
def State.bitPos (s : State) : Nat := 8 * s.spos - s.bitCnt.toNat

/-- Stream bit number `k` (00_scope R9, 20_memory R61). -/
def State.streamBit (s : State) (k : Nat) : Bool := (s.streamByte (k / 8)).getLsbD (7 - k % 8)

/-- `count` stream bits from bit number `k` on. -/
def State.streamBits (s : State) : (k count : Nat) → List Bool
  | _, 0 => []
  | k, count + 1 => s.streamBit k :: s.streamBits (k + 1) count

/-- The stream bits not yet consumed, in order, to the end of the stream. -/
def State.remainingBits (s : State) : List Bool := s.streamBits s.bitPos (8 * s.streamLen - s.bitPos)

/-- The refill loop of R121: while the accumulator holds fewer than `n` bits, one more stream byte is merged in. `fuel`
bounds the number of refills; each adds 8 bits, so `n` of them are always enough. -/
def refill (s : State) (n : Nat) : (fuel acc cnt spos : Nat) → Nat × Nat × Nat
  | 0, acc, cnt, spos => (acc, cnt, spos)
  | fuel + 1, acc, cnt, spos =>
    if cnt < n then refill s n fuel (acc <<< 8 ||| (s.streamByte spos).toNat) (cnt + 8) (spos + 1)
    else (acc, cnt, spos)

/-- The procedure of `readBits(n)` on the registers (40_bit_primitives R121, R124): when too few bits are left it fails before
any refill, leaving the registers as they were. -/
def takeBits (n : Nat) (s : State) : Reading State (BitVec n) :=
  if s.bitCnt.toNat + 8 * (s.streamLen - s.spos) < n then .error s
  else
    let (acc, cnt, spos) := refill s n n s.bitBuf.toNat s.bitCnt.toNat s.spos
    let left := cnt - n
    .ok (BitVec.ofNat n (acc >>> left),
      { s with spos := spos, bitCnt := BitVec.ofNat 3 left, bitBuf := BitVec.ofNat 7 (acc % 2 ^ left) })

/-- `readBits(n)`: the procedure at the widths with which it can be called, and no other (R123, 92 D24; log entry 19). -/
def readBits (n : Nat) (_ : ReadWidth n) (s : State) : Reading State (BitVec n) := takeBits n s

/-- `readBits(n)` by the bit position alone (40_bit_primitives R120): the value, and BP after it; `none` is
TruncatedStream. -/
def readBitsAt (n : Nat) (s : State) : Option (BitVec n × Nat) :=
  if 8 * s.streamLen < s.bitPos + n then none
  else some (BitVec.ofNat n (bitsToNat (s.streamBits s.bitPos n)), s.bitPos + n)

/-! ## The Bit Writer (40_bit_primitives R125, R126) -/

/-- `append(OUT, v)` (00_scope R10). -/
def appendOut (v : Byte) (s : State) : State :=
  { s with out := Memory.write s.out s.olen v, olen := s.olen + 1 }

/-- One round of the loop of `writeBits` (R125): shift a bit into WACC, and append the byte it completes. -/
def writeBit (s : State) (b : Bool) : State :=
  let acc := s.wAcc <<< 1 ||| (BitVec.ofBool b).setWidth 8
  if s.wCnt.toNat + 1 = 8 then { appendOut acc s with wAcc := 0, wCnt := 0 }
  else { s with wAcc := acc, wCnt := s.wCnt + 1 }

/-- `writeBits(value, n)` (R125): the low `n` bits of `value`, most significant first. -/
def writeBits (value n : Nat) (s : State) : State := (natBits n value).foldl writeBit s

/-- `flush()` (R126): complete a partial last byte with zero bits at its low end. -/
def flush (s : State) : State :=
  if s.wCnt = 0 then s
  else { appendOut (s.wAcc <<< (8 - s.wCnt.toNat)) s with wAcc := 0, wCnt := 0 }

/-! ## The Dictionary Cache (42_dictionary_cache R160 to R164) -/

/-- The list every reference byte has at START (R161). -/
def seedList : DictList := #v[0, 1, 2, 3, 4, 5, 6, 7]

/-- The Dictionary Cache at START (10_state R30, 42_dictionary_cache R161). -/
def seedDict : Dict := Vector.replicate 256 seedList

/-- The list of reference byte `r`. -/
def dictList (d : Dict) (r : Byte) : DictList := d[r.toNat]'r.isLt

/-- Replace the list of reference byte `r`. -/
def setDictList (d : Dict) (r : Byte) (l : DictList) : Dict := d.set r.toNat l r.isLt

/-- `lookup(r, s)` (R162). -/
def lookup (d : Dict) (r : Byte) (slot : BitVec 3) : Byte := (dictList d r)[slot.toNat]'slot.isLt

/-- The smallest index at which `v` stands in a list. -/
def firstIndex (v : Byte) : List Byte → Option Nat
  | [] => none
  | x :: xs => if x = v then some 0 else (firstIndex v xs).map (· + 1)

/-- The smallest slot of a list that holds `v` (R163, R164). -/
def position (l : DictList) (v : Byte) : Option Nat := firstIndex v l.toList

/-- Slots `[0, p)` move one slot up, slot `p` is overwritten, `v` goes to slot 0, slots above `p` stay (R163). -/
def shiftIn (l : DictList) (p : Nat) (v : Byte) : DictList :=
  #v[v, if 1 ≤ p then l[0] else l[1], if 2 ≤ p then l[1] else l[2], if 3 ≤ p then l[2] else l[3],
    if 4 ≤ p then l[3] else l[4], if 5 ≤ p then l[4] else l[5], if 6 ≤ p then l[5] else l[6],
    if 7 ≤ p then l[6] else l[7]]

/-- The move-to-front of one list (R163): a value present at slot `p > 0` moves to the front, one at slot 0 changes nothing,
an absent one evicts slot 7. -/
def moveToFront (l : DictList) (v : Byte) : DictList :=
  match position l v with
  | some p => if p = 0 then l else shiftIn l p v
  | none => shiftIn l 7 v

/-- `update(r, v)` (R163), the one update of both engines (R168). -/
def update (d : Dict) (r v : Byte) : Dict := setDictList d r (moveToFront (dictList d r) v)

/-- `find(r, v)` (R164). -/
def find (d : Dict) (r v : Byte) : Option Nat := position (dictList d r) v

/-! ## The end of a step and of the pass -/

/-- The normal end (43_decoder_ops R195, 44_encoder R228): an encode pass flushes first. -/
def finish (s : State) : State :=
  match s.cfgMode with
  | .decode => { s with phase := .done }
  | .encode => { flush s with phase := .done }

/-- The tests of the two loops of a pass (43_decoder_ops R180, R182, R183, 44_encoder R220, 10_state R31): PREFIX gives way
to LOOP when `CUR < NPRE` fails, LOOP to DONE when `CUR < SIZE` fails. -/
def loopTest (s : State) : State :=
  let t := if s.phase = .litPrefix ∧ s.prefixBytes ≤ s.cur then { s with phase := .mainLoop } else s
  if t.phase = .mainLoop ∧ t.size ≤ t.cur then finish t else t

/-- A step of the running engine has something to do: the test of the loop it is in succeeds (R180, R220). -/
def State.unfinished (s : State) : Bool :=
  match s.phase with
  | .litPrefix => s.cur < s.prefixBytes
  | .mainLoop => s.cur < s.size
  | _ => false

/-! ## Taking a fault (60_exceptions R267), and the only way on (R269) -/

/-- `raise X`: FAULTCODE and PHASE, and nothing else (R267). -/
def raise (c : FaultCode) (s : State) : State := { s with faultCode := c, phase := .fault }

/-- START of a decode pass (70_reset R291, column DECODE; 43_decoder_ops R181). -/
def startDecode (s : State) : State :=
  { s with
    faultCode := .none, cur := 0, spos := 0, bitCnt := 0, bitBuf := 0, dict := seedDict,
    phase := if s.size = 0 then .done else .litPrefix }

/-- START of an encode pass (70_reset R291, column ENCODE; 44_encoder R221). -/
def startEncode (s : State) : State :=
  { s with
    faultCode := .none, cur := 0, wAcc := 0, wCnt := 0, olen := 0, out := [], dict := seedDict,
    phase := if s.size = 0 then .done else .litPrefix }

/-- An accepted START (10_state R33): the pass that CFG_MODE names begins. -/
def startPass (s : State) : State :=
  match s.cfgMode with
  | .decode => startDecode s
  | .encode => startEncode s

/-- The START command is consumed. -/
def dropStart (s : State) : State := { s with ctrlStart := false }

/-! ## Canvas accesses of the operations -/

/-- The reference byte `C[CUR - P]` (10_state R29, 42_dictionary_cache R165). The stops are for states no pass reaches. -/
def refByte (s : State) : Except Fault Byte :=
  if s.cur < s.bpp then .error .belowCanvas
  else if s.size ≤ s.cur - s.bpp then .error (.canvasOutside (s.cur - s.bpp))
  else .ok (s.canvasByte (s.cur - s.bpp))

/-- `C[a] <- v` (00_scope R10). The stop is for states no pass reaches. -/
def storeCanvas (a : Nat) (v : Byte) (s : State) : Except Fault State :=
  if s.size ≤ a then .error (.canvasOutside a) else .ok { s with canvas := Memory.write s.canvas a v }

/-- The forward copy of `count` bytes (43_decoder_ops R187, 20_memory R70): byte by byte, each read before its write and
after the write of the byte before it. -/
def copyForward (c : Memory) (src dst : Nat) : (count : Nat) → Memory
  | 0 => c
  | count + 1 => copyForward (Memory.write c dst (canvasAt c src)) (src + 1) (dst + 1) count

/-- RAW after its byte is read (43_decoder_ops R182). -/
def writeRaw (v : Byte) (s : State) : Host.Outcome State Fault Refusal :=
  match storeCanvas s.cur v { s with val := v } with
  | .error f => .fault f
  | .ok t => .next (loopTest { t with cur := t.cur + 1 })

/-- LIT and DIC after their field is read (43_decoder_ops R185, R186, 20_memory R69): the reference byte is read, then the
value is resolved, written at CUR and given to the dictionary, and CUR advances by one pixel-group. -/
def writePixel (value : Byte → Byte) (s : State) : Host.Outcome State Fault Refusal :=
  match refByte s with
  | .error f => .fault f
  | .ok r =>
    let v := value r
    match storeCanvas s.cur v { s with ref := r, val := v } with
    | .error f => .fault f
    | .ok t => .next (loopTest { t with dict := update t.dict r v, cur := t.cur + t.bpp })

end Sys2Proof.Machine
end

