-- ==== Sys2Proof/Machine/Operands.lean ====
section
/-! DEFINITION. The operands of a copy: the run count of each varint form (30_encoding R98, 41_varint R140), the source
offset of each opcode (43_decoder_ops R188 to R192), and the common copy procedure over them (R187). -/

namespace Sys2Proof.Machine

/-- LEN of form `V2`: the field (1..3). -/
def lenV2 (a : BitVec 2) : BitVec 32 := a.setWidth 32

/-- LEN of form `V6`: the field plus 3, the only bias (4..18). -/
def lenV6 (b : BitVec 4) : BitVec 32 := b.setWidth 32 + 3

/-- LEN of form `V14`: the field itself (1..255; R101). -/
def lenV14 (c : BitVec 8) : BitVec 32 := c.setWidth 32

/-- LEN of form `V30`: the field itself (1..65535; R101). -/
def lenV30 (d : BitVec 16) : BitVec 32 := d.setWidth 32

/-- LEN of form `V62`: `(h << 16) | l` (0..4294967295; R102). -/
def lenV62 (h l : BitVec 16) : BitVec 32 := h ++ l

/-- The run count that a form spells. -/
def runLen : Run → BitVec 32
  | .v2 a => lenV2 a
  | .v6 b => lenV6 b
  | .v14 c => lenV14 c
  | .v30 d => lenV30 d
  | .v62 h l => lenV62 h l

/-- The source offset of a copy at cursor `w`, for `p` bytes per pixel and lines of `l` bytes (43_decoder_ops R188 to R192).
`none` for CPREV with `w < p`, which no pass reaches (R188: no guard). -/
def sourceOffset (op : CopyOp) (p l w : Nat) : Option Nat :=
  match op with
  | .cprev => if p ≤ w then some (w - p) else none
  | .cup => some (if l ≤ w then w - l else 0)
  | .cupr => some (if l < w then w - l + p else p)
  | .cupl => some (if l + p < w then w - l - p else 0)
  | .cprev2 => some (if 2 * p ≤ w then w - 2 * p else 0)

/-- The common copy procedure after LEN is read (43_decoder_ops R187). CanvasOverrun is tested with the exact product and
before any write (R262, R266); LEN, W and SRC stay recorded (R260). The stops are for states no pass reaches. -/
def copyRun (op : CopyOp) (n : BitVec 32) (s : State) : Host.Outcome State Fault Refusal :=
  match sourceOffset op s.bpp s.lineBytes s.cur with
  | none => .fault .belowCanvas
  | some src =>
    let t := { s with len := n, w := s.cur, src := src }
    let count := n.toNat * s.bpp
    if s.size < s.cur + count then .next (raise .canvasOverrun t)
    else if 0 < count ∧ s.size < src + count then .fault (.canvasOutside (max src s.size))
    else .next (loopTest { t with canvas := copyForward s.canvas src s.cur count, cur := s.cur + count })

end Sys2Proof.Machine
end

