-- ==== Sys2Proof/Machine/Copies.lean ====
section
/-! DEFINITION. The meanings of the five copies in each varint form (43_decoder_ops R187 to R192): the run count of the form
(Operands.lean), then the common copy procedure. A run count of 0 copies nothing (R194). -/

namespace Sys2Proof.Machine

/-- `CPREV.V2` ("10" + V2, R188). -/
def execCprevV2 (a : BitVec 2) (s : State) : Host.Outcome State Fault Refusal := copyRun .cprev (lenV2 a) s

/-- `CPREV.V6` ("10" + V6, R188). -/
def execCprevV6 (b : BitVec 4) (s : State) : Host.Outcome State Fault Refusal := copyRun .cprev (lenV6 b) s

/-- `CPREV.V14` ("10" + V14, R188). -/
def execCprevV14 (c : BitVec 8) (s : State) : Host.Outcome State Fault Refusal := copyRun .cprev (lenV14 c) s

/-- `CPREV.V30` ("10" + V30, R188). -/
def execCprevV30 (d : BitVec 16) (s : State) : Host.Outcome State Fault Refusal := copyRun .cprev (lenV30 d) s

/-- `CPREV.V62` ("10" + V62, R188). -/
def execCprevV62 (h l : BitVec 16) (s : State) : Host.Outcome State Fault Refusal := copyRun .cprev (lenV62 h l) s

/-- `CUP.V2` ("1100" + V2, R189). -/
def execCupV2 (a : BitVec 2) (s : State) : Host.Outcome State Fault Refusal := copyRun .cup (lenV2 a) s

/-- `CUP.V6` ("1100" + V6, R189). -/
def execCupV6 (b : BitVec 4) (s : State) : Host.Outcome State Fault Refusal := copyRun .cup (lenV6 b) s

/-- `CUP.V14` ("1100" + V14, R189). -/
def execCupV14 (c : BitVec 8) (s : State) : Host.Outcome State Fault Refusal := copyRun .cup (lenV14 c) s

/-- `CUP.V30` ("1100" + V30, R189). -/
def execCupV30 (d : BitVec 16) (s : State) : Host.Outcome State Fault Refusal := copyRun .cup (lenV30 d) s

/-- `CUP.V62` ("1100" + V62, R189). -/
def execCupV62 (h l : BitVec 16) (s : State) : Host.Outcome State Fault Refusal := copyRun .cup (lenV62 h l) s

/-- `CUPR.V2` ("1101" + V2, R190). -/
def execCuprV2 (a : BitVec 2) (s : State) : Host.Outcome State Fault Refusal := copyRun .cupr (lenV2 a) s

/-- `CUPR.V6` ("1101" + V6, R190). -/
def execCuprV6 (b : BitVec 4) (s : State) : Host.Outcome State Fault Refusal := copyRun .cupr (lenV6 b) s

/-- `CUPR.V14` ("1101" + V14, R190). -/
def execCuprV14 (c : BitVec 8) (s : State) : Host.Outcome State Fault Refusal := copyRun .cupr (lenV14 c) s

/-- `CUPR.V30` ("1101" + V30, R190). -/
def execCuprV30 (d : BitVec 16) (s : State) : Host.Outcome State Fault Refusal := copyRun .cupr (lenV30 d) s

/-- `CUPR.V62` ("1101" + V62, R190). -/
def execCuprV62 (h l : BitVec 16) (s : State) : Host.Outcome State Fault Refusal := copyRun .cupr (lenV62 h l) s

/-- `CUPL.V2` ("1110" + V2, R191). -/
def execCuplV2 (a : BitVec 2) (s : State) : Host.Outcome State Fault Refusal := copyRun .cupl (lenV2 a) s

/-- `CUPL.V6` ("1110" + V6, R191). -/
def execCuplV6 (b : BitVec 4) (s : State) : Host.Outcome State Fault Refusal := copyRun .cupl (lenV6 b) s

/-- `CUPL.V14` ("1110" + V14, R191). -/
def execCuplV14 (c : BitVec 8) (s : State) : Host.Outcome State Fault Refusal := copyRun .cupl (lenV14 c) s

/-- `CUPL.V30` ("1110" + V30, R191). -/
def execCuplV30 (d : BitVec 16) (s : State) : Host.Outcome State Fault Refusal := copyRun .cupl (lenV30 d) s

/-- `CUPL.V62` ("1110" + V62, R191). -/
def execCuplV62 (h l : BitVec 16) (s : State) : Host.Outcome State Fault Refusal := copyRun .cupl (lenV62 h l) s

/-- `CPREV2.V2` ("1111" + V2, R192). -/
def execCprev2V2 (a : BitVec 2) (s : State) : Host.Outcome State Fault Refusal := copyRun .cprev2 (lenV2 a) s

/-- `CPREV2.V6` ("1111" + V6, R192). -/
def execCprev2V6 (b : BitVec 4) (s : State) : Host.Outcome State Fault Refusal := copyRun .cprev2 (lenV6 b) s

/-- `CPREV2.V14` ("1111" + V14, R192). -/
def execCprev2V14 (c : BitVec 8) (s : State) : Host.Outcome State Fault Refusal := copyRun .cprev2 (lenV14 c) s

/-- `CPREV2.V30` ("1111" + V30, R192). -/
def execCprev2V30 (d : BitVec 16) (s : State) : Host.Outcome State Fault Refusal := copyRun .cprev2 (lenV30 d) s

/-- `CPREV2.V62` ("1111" + V62, R192). -/
def execCprev2V62 (h l : BitVec 16) (s : State) : Host.Outcome State Fault Refusal := copyRun .cprev2 (lenV62 h l) s

end Sys2Proof.Machine
end

