-- ==== Sys2Proof/Machine/Literal.lean ====
section
/-! DEFINITION. The meanings of the operations that carry a pixel byte or a dictionary slot: RAW, LIT, DIC
(43_decoder_ops R182, R185, R186). -/

namespace Sys2Proof.Machine

/-- `RAW v` (R182): the literal prefix byte `v`. It neither reads nor writes the dictionary (42_dictionary_cache R167). -/
def execRaw (v : Byte) (s : State) : Host.Outcome State Fault Refusal := writeRaw v s

/-- `LIT v` (R185): the literal pixel byte `v`. -/
def execLit (v : Byte) (s : State) : Host.Outcome State Fault Refusal := writePixel (fun _ => v) s

/-- `DIC k` (R186): the byte in slot `k` of the reference byte's list, as the list is before the update. -/
def execDic (k : BitVec 3) (s : State) : Host.Outcome State Fault Refusal :=
  writePixel (fun r => lookup s.dict r k) { s with slot := k }

end Sys2Proof.Machine
end

