-- ==== Sys2Proof/Machine/Dispatch.lean ====
section
/-! DEFINITION. Which meaning an operation has: one arm per constructor of `Instr` (43_decoder_ops R184). -/

namespace Sys2Proof.Machine

/-- The effect of an operation whose stream bits have been read. -/
def exec (i : Instr) (s : State) : Host.Outcome State Fault Refusal :=
  match i with
  | .raw v => Sys2Proof.Machine.execRaw v s
  | .lit v => Sys2Proof.Machine.execLit v s
  | .dic k => Sys2Proof.Machine.execDic k s
  | .cprevV2 a => Sys2Proof.Machine.execCprevV2 a s
  | .cprevV6 b => Sys2Proof.Machine.execCprevV6 b s
  | .cprevV14 c => Sys2Proof.Machine.execCprevV14 c s
  | .cprevV30 d => Sys2Proof.Machine.execCprevV30 d s
  | .cprevV62 h l => Sys2Proof.Machine.execCprevV62 h l s
  | .cupV2 a => Sys2Proof.Machine.execCupV2 a s
  | .cupV6 b => Sys2Proof.Machine.execCupV6 b s
  | .cupV14 c => Sys2Proof.Machine.execCupV14 c s
  | .cupV30 d => Sys2Proof.Machine.execCupV30 d s
  | .cupV62 h l => Sys2Proof.Machine.execCupV62 h l s
  | .cuprV2 a => Sys2Proof.Machine.execCuprV2 a s
  | .cuprV6 b => Sys2Proof.Machine.execCuprV6 b s
  | .cuprV14 c => Sys2Proof.Machine.execCuprV14 c s
  | .cuprV30 d => Sys2Proof.Machine.execCuprV30 d s
  | .cuprV62 h l => Sys2Proof.Machine.execCuprV62 h l s
  | .cuplV2 a => Sys2Proof.Machine.execCuplV2 a s
  | .cuplV6 b => Sys2Proof.Machine.execCuplV6 b s
  | .cuplV14 c => Sys2Proof.Machine.execCuplV14 c s
  | .cuplV30 d => Sys2Proof.Machine.execCuplV30 d s
  | .cuplV62 h l => Sys2Proof.Machine.execCuplV62 h l s
  | .cprev2V2 a => Sys2Proof.Machine.execCprev2V2 a s
  | .cprev2V6 b => Sys2Proof.Machine.execCprev2V6 b s
  | .cprev2V14 c => Sys2Proof.Machine.execCprev2V14 c s
  | .cprev2V30 d => Sys2Proof.Machine.execCprev2V30 d s
  | .cprev2V62 h l => Sys2Proof.Machine.execCprev2V62 h l s

end Sys2Proof.Machine
end

