-- ==== Sys2Proof/Machine/Encoder.lean ====
section
/-! DEFINITION. The encoder engine (44_encoder R220 to R228): the greedy match finder and the emission of one prefix byte or
one operation. It raises no fault of the spec (R229). -/

namespace Sys2Proof.Machine

/-! ## The match finder (R223 to R225) -/

/-- A candidate is admitted when its source formula is on its main branch and its source is strictly behind the cursor
(R223; 92 D15). -/
def admitted (op : CopyOp) (p l w : Nat) : Bool :=
  match op with
  | .cprev => 2 * p ≤ w
  | .cup => l ≤ w
  | .cupr => l < w ∧ w - l + p < w
  | .cupl => l + p < w
  | .cprev2 => 2 * p ≤ w

/-- The pixel-groups of `p` bytes at offsets `a` and `b` agree (R224). -/
def sameGroup (c : Memory) : (p a b : Nat) → Bool
  | 0, _, _ => true
  | p + 1, a, b => canvasAt c a == canvasAt c b && sameGroup c p (a + 1) (b + 1)

/-- The number of whole groups, at most `limit`, that agree from `src` and from `w` on (R224). -/
def matchRun (c : Memory) (p src w : Nat) : (limit : Nat) → Nat
  | 0 => 0
  | limit + 1 => if sameGroup c p src w then matchRun c p (src + p) (w + p) limit + 1 else 0

/-- `run(k, W)` of a candidate at the cursor, 0 when it is not admitted (R223, R224). The limit is the number of whole
groups before the end of the canvas. -/
def candidateRun (s : State) (op : CopyOp) : Nat :=
  if admitted op s.bpp s.lineBytes s.cur then
    match sourceOffset op s.bpp s.lineBytes s.cur with
    | some src => matchRun s.canvas s.bpp src s.cur ((s.size - s.cur) / s.bpp)
    | none => 0
  else 0

/-- The trial order of the candidates (R223, R225). -/
def trialOrder : List CopyOp := [.cprev, .cup, .cupr, .cupl, .cprev2]

/-- `best(W)` (R225): the longest run, the first found on equal length; none when no candidate reaches 1. -/
def best (s : State) : Option CopyOp × Nat :=
  trialOrder.foldl (fun b op => if b.2 < candidateRun s op then (some op, candidateRun s op) else b) (none, 0)

/-! ## Emission (R226, R227) -/

/-- `encodeVarint(v)` (41_varint R141). -/
def encodeVarint (v : Nat) (s : State) : State :=
  if 1 ≤ v ∧ v ≤ 3 then writeBits v 2 s
  else if 4 ≤ v ∧ v ≤ 18 then writeBits (v - 3) 4 (writeBits 0 2 s)
  else if 19 ≤ v ∧ v ≤ 255 then writeBits v 8 (writeBits 0 4 (writeBits 0 2 s))
  else if 256 ≤ v ∧ v ≤ 65535 then writeBits v 16 (writeBits 0 8 (writeBits 0 4 (writeBits 0 2 s)))
  else
    writeBits (v % 2 ^ 16) 16 (writeBits (v >>> 16) 16
      (writeBits 0 16 (writeBits 0 8 (writeBits 0 4 (writeBits 0 2 s)))))

/-- Copy emission (R226): the opcode prefix, the canonical run count, and CUR past the run. -/
def emitCopy (op : CopyOp) (n : Nat) (s : State) : State :=
  let t := encodeVarint n (writeBits op.code.1 op.code.2 s)
  { t with cur := s.cur + n * s.bpp }

/-- The fields of a `DIC` or a `LIT`, whichever names `v` in a dictionary list (R227). -/
def emitPixelBits (found : Option Nat) (v : Byte) (s : State) : State :=
  match found with
  | some slot => writeBits slot 3 (writeBits 0 1 (writeBits 0 1 s))
  | none => writeBits v.toNat 8 (writeBits 1 1 (writeBits 0 1 s))

/-- Literal or dictionary emission (R227). The stop is for states no pass reaches. -/
def emitPixel (s : State) : Except Fault State :=
  match refByte s with
  | .error f => .error f
  | .ok r =>
    let v := s.canvasByte s.cur
    let t := emitPixelBits (find s.dict r v) v { s with val := v, ref := r }
    .ok { t with dict := update s.dict r v, cur := s.cur + s.bpp }

/-- A byte of the literal prefix (R222). -/
def emitPrefixByte (s : State) : State :=
  let t := writeBits (s.canvasByte s.cur).toNat 8 s
  { t with cur := s.cur + 1 }

/-- One iteration of the main loop (R220): the best copy if it reaches two groups, else a literal or a dictionary slot. -/
def emitOperation (s : State) : Except Fault State :=
  match best s with
  | (some op, n) => if 2 ≤ n then .ok (emitCopy op n s) else emitPixel s
  | (none, _) => emitPixel s

/-- One step of the encoder engine while the pass is unfinished (R220, 92 D22), with the loop tests after it. -/
def encodeStep (s : State) : Host.Outcome State Fault Refusal :=
  if s.phase = .litPrefix then .next (loopTest (emitPrefixByte s))
  else
    match emitOperation s with
    | .ok t => .next (loopTest t)
    | .error f => .fault f

end Sys2Proof.Machine
end

