-- ==== Sys2Proof/Machine/Fetch.lean ====
section
/-! DEFINITION. Fetching an operation: the decoder of Decode.lean run over the Bit Reader registers (20_memory R60, R72),
filling OPC and FLAG as it goes (30_encoding R92, 43_decoder_ops R184). -/

namespace Sys2Proof.Machine

/-- The Bit Reader as the decoder's source of bits. -/
def readerSource : BitSource State where
  read n h s := readBits n h s
  setOpc c s := { s with opc := c }
  setFlag f s := { s with flag := f }

/-- The part of the stream the running pass is in: the phase selects `RAW` (30_encoding R94, R106). -/
def State.part (s : State) : StreamPart :=
  if s.phase = .litPrefix then .rawBytes else .operations

/-- The operation at BP and the state after its bits are read; or the state in which a read found too few bits. -/
def fetch (s : State) : Reading State Instr := decodePart readerSource s.part s

end Sys2Proof.Machine
end

