-- ==== Sys2Proof/Machine/Engine.lean ====
section
/-! DEFINITION. What one step of the machine is (00_scope R7, 92 D22): START when no pass runs, one step of the selected engine
when one does; and how a word of the opcode table is placed where the next step fetches. -/

namespace Sys2Proof.Machine

/-- One step of the decoder engine while the pass is unfinished (43_decoder_ops R180): fetch one operation and execute it.
A read that finds too few bits raises TruncatedStream in the state it found (60_exceptions R260, R261). -/
def decodeStep (s : State) : Host.Outcome State Fault Refusal :=
  match fetch s with
  | .ok (i, t) => exec i t
  | .error t => .next (raise .truncatedStream t)

/-- One step of a running pass (10_state R20: CFG_MODE selects the engine). A loop whose test fails is left first; between
steps of a pass that never happens (log entry 10). -/
def passStep (s : State) : Host.Outcome State Fault Refusal :=
  if s.unfinished then
    match s.cfgMode with
    | .decode => decodeStep s
    | .encode => encodeStep s
  else .next (loopTest s)

/-- What a core without a pass does: a START that is up is consumed, and starts the pass if the configuration is legal
(10_state R33, 60_exceptions R270); without one nothing happens (70_reset R290; log entry 5). -/
def waitStep (s : State) : State :=
  if s.ctrlStart ∧ s.configLegal then startPass (dropStart s) else dropStart s

/-- One step of the machine. A START written while a pass runs has no effect (60_exceptions R273). -/
def machineStep (s : State) : Host.Outcome State Fault Refusal :=
  if s.running then passStep (dropStart s) else .next (waitStep s)

/-! ## Placing a word of the opcode table -/

/-- The configuration under which a placed word runs: a decode pass of a 16 by 32 image, one byte per pixel, whose stream
has `n` bytes. -/
def placedConfig (n : Nat) (s : State) : State :=
  { s with
    cfgWidth := 16, cfgHeight := 32, cfgBpp := 1, cfgMode := .decode, cfgSlen := BitVec.ofNat 32 n, ctrlStart := false }

/-- The state in which the next step fetches the placed word (log entry 6). A `RAW` byte is the first of the stream, right
after START. Any other operation stands after a literal prefix of two zero bytes, which has been read. -/
def placeWord (nbits w : Nat) (s : State) : State :=
  let (part, bits) := tableWordBits nbits w
  match part with
  | .rawBytes =>
    let bytes := bitsToBytes bits
    { startDecode (placedConfig bytes.length s) with stream := Memory.writeBytes [] 0 bytes }
  | .operations =>
    let bytes := [0, 0] ++ bitsToBytes bits
    { startDecode (placedConfig bytes.length s) with
      stream := Memory.writeBytes [] 0 bytes, spos := 2, cur := 2, phase := .mainLoop,
      canvas := Memory.write (Memory.write s.canvas 0 0) 1 0 }

end Sys2Proof.Machine
end

