-- ==== Sys2Proof/Machine/Flags.lean ====
section
/-! DEFINITION. The status the host sees as numbers (10_state R31, R32). The machine has no condition codes: PHASE and
FAULTCODE are its only flags (R32). -/

namespace Sys2Proof.Machine

/-- The 3-bit value of PHASE (10_state R31). -/
def Phase.code : Phase → BitVec 3
  | .idle => 0
  | .litPrefix => 1
  | .mainLoop => 2
  | .done => 3
  | .fault => 4

/-- The 2-bit value of FAULTCODE (10_state R32, 60_exceptions R260). -/
def FaultCode.code : FaultCode → BitVec 2
  | .none => 0
  | .truncatedStream => 1
  | .canvasOverrun => 2

/-- The 1-bit value of CFG_MODE (10_state R20). -/
def Mode.code : Mode → BitVec 1
  | .decode => 0
  | .encode => 1

end Sys2Proof.Machine
end

