-- ==== Sys2Proof/Machine/HostPort.lean ====
section
/-! DEFINITION. What the host may do to the core (00_scope R7, 60_exceptions R274, 70_reset R292): write the configuration and
the memories and issue START while no pass runs, read PHASE and FAULTCODE at any time and everything else while no pass runs.
No register has an address (10_state R20, parameter CSR_MAP), so each access is an operation of its own (log entry 13). -/

namespace Sys2Proof.Machine

/-! ## Writes -/

/-- A host write: between START and the end of the pass the spec has a model refuse it (93 U12, 70_reset R294, R295). -/
def hostWrite (s t : State) : Host.Outcome State Fault Refusal :=
  if s.busy then .refused .hostWriteDuringPass else .next t

/-- Write CFG_WIDTH (10_state R20). -/
def hostWriteWidth (v : BitVec 16) (s : State) : Host.Outcome State Fault Refusal :=
  hostWrite s { s with cfgWidth := v }

/-- Write CFG_HEIGHT (10_state R20). -/
def hostWriteHeight (v : BitVec 16) (s : State) : Host.Outcome State Fault Refusal :=
  hostWrite s { s with cfgHeight := v }

/-- Write CFG_BPP (10_state R20). -/
def hostWriteBpp (v : BitVec 2) (s : State) : Host.Outcome State Fault Refusal := hostWrite s { s with cfgBpp := v }

/-- Write CFG_MODE (10_state R20). -/
def hostWriteMode (m : Mode) (s : State) : Host.Outcome State Fault Refusal := hostWrite s { s with cfgMode := m }

/-- Write CFG_SLEN (10_state R20). -/
def hostWriteSlen (v : BitVec 32) (s : State) : Host.Outcome State Fault Refusal := hostWrite s { s with cfgSlen := v }

/-- Fill STREAM with `bytes` from index `a` on (10_state R22, 70_reset R292). The index is not tested against CFG_SLEN: that a
byte written at or past SLEN is accepted and kept, where R22 gives bytes `0 .. SLEN - 1` only, is a choice of the model (log
entry 25). -/
def hostFillStream (a : Nat) (bytes : List Byte) (s : State) : Host.Outcome State Fault Refusal :=
  hostWrite s { s with stream := Memory.writeBytes s.stream a bytes }

/-- Fill CANVAS with `bytes` from offset `a` on (10_state R23, 70_reset R292). The offset is not tested against SIZE: that a
byte written at or past SIZE is accepted and kept, where R23 gives bytes `0 .. SIZE - 1` only, is a choice of the model (log
entry 25). -/
def hostFillCanvas (a : Nat) (bytes : List Byte) (s : State) : Host.Outcome State Fault Refusal :=
  hostWrite s { s with canvas := Memory.writeBytes s.canvas a bytes }

/-- Write 1 to CTRL.START (10_state R33). The configuration is judged and the pass begun in the write itself, "atomically and
before the first step of the pass" (70_reset R291): the command bit goes up and the waiting core consumes it, with no host
access between (log entry 4). An illegal configuration (60_exceptions R270) or a running pass (R273) gives it no effect. -/
def hostStart (s : State) : State := if s.running then s else waitStep { s with ctrlStart := true }

/-! ## Reads -/

/-- Read PHASE (10_state R31), allowed at any time (60_exceptions R274). -/
def hostReadPhase (s : State) : BitVec 3 := s.phase.code

/-- Read FAULTCODE (10_state R32, 92 D26). -/
def hostReadFaultCode (s : State) : BitVec 2 := s.faultCode.code

/-- What the host can read beside PHASE and FAULTCODE. The transients OPC, FLAG, SLOT, VAL, REF, LEN, W and SRC are not among
the items, during a pass or after DONE or FAULT: the spec does not say whether the host can read them (60_exceptions R260
records LEN and SRC, 20_memory R71 says everything the engine wrote, 92 D26 names FAULTCODE, CUR and the Bit Reader position
only), and to offer no read of them is a choice of the model (log entry 24). Nor is STREAM, of which the spec describes no
host read: no engine writes it (20_memory R60). -/
inductive HostItem where
  | cfgWidth
  | cfgHeight
  | cfgBpp
  | cfgMode
  | cfgSlen
  | cur
  | spos
  | bitCnt
  | bitBuf
  | wAcc
  | wCnt
  | olen
  | dict (r : Byte) (slot : BitVec 3)
  | canvas (a : Nat)
  | out (a : Nat)
  deriving DecidableEq, Repr

/-- A host read of an item that holds `x`. Before START and after the end of a pass the host sees what it holds (20_memory R71,
10_state R20); between them the spec promises the host nothing but PHASE (70_reset R298, 60_exceptions R272, R274), and the
read gives a free value (log entry 23). -/
def hostRead {α : Type} [Inhabited α] (item : HostItem) (x : α) (s : State) : α :=
  if s.busy then Config.hidden (s, item) else x

/-- A host read of the canvas or the dictionary: after FAULT "any value" (60_exceptions R268, 92 D26, 93 U5; log entry 8). -/
def hostReadUnlessFault {α : Type} [Inhabited α] (item : HostItem) (x : α) (s : State) : α :=
  if s.phase = .fault then Config.hidden (s, item) else hostRead item x s

/-- Read CFG_WIDTH (10_state R20: host read/write). -/
def hostReadWidth (s : State) : BitVec 16 := hostRead .cfgWidth s.cfgWidth s

/-- Read CFG_HEIGHT (10_state R20). -/
def hostReadHeight (s : State) : BitVec 16 := hostRead .cfgHeight s.cfgHeight s

/-- Read CFG_BPP (10_state R20). -/
def hostReadBpp (s : State) : BitVec 2 := hostRead .cfgBpp s.cfgBpp s

/-- Read CFG_MODE (10_state R20). -/
def hostReadMode (s : State) : BitVec 1 := hostRead .cfgMode s.cfgMode.code s

/-- Read CFG_SLEN (10_state R20). -/
def hostReadSlen (s : State) : BitVec 32 := hostRead .cfgSlen s.cfgSlen s

/-- Read CUR (20_memory R71). After FAULT it is exact, for diagnosis (92 D26), although the heading of 93 U5 names the cursor:
a choice of the model (log entry 8). -/
def hostReadCur (s : State) : Nat := hostRead .cur s.cur s

/-- Read SPOS, the byte part of the Bit Reader position (20_memory R71); exact after FAULT too (92 D26). -/
def hostReadSpos (s : State) : Nat := hostRead .spos s.spos s

/-- Read BITCNT, the bit part of the Bit Reader position (20_memory R71); exact after FAULT too (92 D26). -/
def hostReadBitCnt (s : State) : BitVec 3 := hostRead .bitCnt s.bitCnt s

/-- Read BITBUF (20_memory R71). -/
def hostReadBitBuf (s : State) : BitVec 7 := hostRead .bitBuf s.bitBuf s

/-- Read WACC (20_memory R71). -/
def hostReadWAcc (s : State) : BitVec 8 := hostRead .wAcc s.wAcc s

/-- Read WCNT (20_memory R71). -/
def hostReadWCnt (s : State) : BitVec 3 := hostRead .wCnt s.wCnt s

/-- Read `DICT[r][slot]` (20_memory R71). -/
def hostReadDict (r : Byte) (slot : BitVec 3) (s : State) : Byte :=
  hostReadUnlessFault (.dict r slot) (lookup s.dict r slot) s

/-- Read canvas byte `a` (70_reset R298, 60_exceptions R274). Which bytes are the result is settled by the pass that has ended.
The read itself tests no configuration register, so a CFG_* rewritten at DONE (10_state R20) changes no byte of the result,
and an offset past the SIZE of the pass gives what the memory holds there: a choice of the model (log entry 22). -/
def hostReadCanvas (a : Nat) (s : State) : Byte := hostReadUnlessFault (.canvas a) (s.canvasByte a) s

/-- Read OLEN (70_reset R298, 60_exceptions R274). It tests no configuration register; after a decode pass it is what the last
encode pass left (70_reset R291: untouched): a choice of the model (log entry 22). -/
def hostReadOlen (s : State) : Nat := hostRead .olen s.olen s

/-- Read output byte `a` (70_reset R298, 60_exceptions R274): `none` past the bytes that OUT holds (10_state R24). It tests no
configuration register; after a decode pass OUT is untouched: a choice of the model (log entry 22). -/
def hostReadOut (a : Nat) (s : State) : Option Byte := hostRead (.out a) (Memory.read? s.out a) s

end Sys2Proof.Machine
end

