-- ==== Sys2Proof/Safety.lean ====
section
/-! DEFINITION. What a good state and a good run are: the invariants the spec states of a pass (10_state R26, R28, R34, R36),
gathered in `State.Inv`, and the words in which claims about runs are made. -/

namespace Sys2Proof.Machine

/-! ## Invariants -/

/-- The cursor invariants (10_state R25, R34): in PREFIX some of the literal prefix is left; in LOOP the cursor is a multiple
of P, at least two pixel-groups have been produced, and there is canvas left. -/
abbrev State.cursorOk (s : State) : Prop :=
  (s.phase = .litPrefix → s.cur < s.prefixBytes) ∧
  (s.phase = .mainLoop → s.cur < s.size ∧ 2 * s.bpp ≤ s.cur ∧ s.cur % s.bpp = 0)

/-- The Bit Reader invariant (10_state R26, R27): SPOS is within the stream, the bits held have been fetched, and BITBUF is the
low BITCNT bits of the byte before SPOS. -/
abbrev State.readerOk (s : State) : Prop :=
  s.spos ≤ s.streamLen ∧ s.bitCnt.toNat ≤ 8 * s.spos ∧
  s.bitBuf.toNat = (s.streamByte (s.spos - 1)).toNat % 2 ^ s.bitCnt.toNat

/-- The Bit Writer invariant (10_state R24, R28, 44_encoder R234): WACC holds WCNT bits, OUT is exactly the bytes
`0 .. OLEN - 1`, and at most 10 bits have been written for each canvas byte passed. -/
abbrev State.writerOk (s : State) : Prop :=
  s.wAcc.toNat < 2 ^ s.wCnt.toNat ∧ s.out.map Prod.fst = List.range s.olen ∧ 8 * s.olen + s.wCnt.toNat ≤ 10 * s.cur

/-- The dictionary invariant (10_state R36, 42_dictionary_cache R166): the slots of every list hold distinct values. -/
def dictDistinct (d : Dict) : Prop := ∀ r : Byte, (dictList d r).toList.Nodup

/-- The invariant of the machine. The memories are canonical and FAULTCODE tells PHASE = FAULT apart in every state; the
rest holds while a pass runs. -/
structure State.Inv (s : State) : Prop where
  streamWf : Memory.wf s.stream
  canvasWf : Memory.wf s.canvas
  outWf : Memory.wf s.out
  faultCode : s.phase = .fault ↔ s.faultCode ≠ .none
  config : s.running = true → s.configLegal = true
  cursor : s.cursorOk
  dict : s.running = true → dictDistinct s.dict
  reader : s.running = true → s.cfgMode = .decode → s.readerOk
  writer : s.running = true → s.cfgMode = .encode → s.writerOk

/-! ## Runs -/

/-- `k` steps of the machine. -/
def steps (k : Nat) (s : State) : Host.Outcome State Fault Refusal := Host.Core.run Sys2Proof.core k s

/-- The host's START is up and the next step accepts it (10_state R33): that step is the START itself, as `hostStart` takes it
(log entry 4). -/
abbrev State.starting (s : State) : Prop := s.running = false ∧ s.ctrlStart = true ∧ s.configLegal = true

/-- A pass that has ended, normally or by a fault (10_state R31). -/
abbrev State.ended (s : State) : Prop := s.phase = .done ∨ s.phase = .fault

/-- The bits an encode pass has written so far: the bytes of OUT, then the valid bits of WACC (10_state R24, R28). -/
def State.writtenBits (s : State) : List Bool :=
  (List.range s.olen).flatMap (fun a => field ((Memory.read? s.out a).getD 0)) ++ natBits s.wCnt.toNat s.wAcc.toNat

/-- Read fields of the given widths one after another with the Bit Reader's procedure (40_bit_primitives R121): the values, and
the state after the last. -/
def readFields : List Nat → State → Option (List Nat × State)
  | [], s => some ([], s)
  | n :: ns, s =>
    match takeBits n s with
    | .error _ => none
    | .ok (v, t) => (readFields ns t).map fun (vs, u) => (v.toNat :: vs, u)

/-- Write fields one after another: each is a value and a width (40_bit_primitives R127). -/
def writeFields (fields : List (Nat × Nat)) (s : State) : State :=
  fields.foldl (fun t f => writeBits f.1 f.2 t) s

/-- A copy group by group: the `p` bytes of a group are all read before they are written (20_memory R70, 43_decoder_ops R193). -/
def copyGroups (c : Memory) (p src dst : Nat) : (groups : Nat) → Memory
  | 0 => c
  | groups + 1 =>
    copyGroups (Memory.writeBytes c dst ((List.range p).map fun b => canvasAt c (src + b))) p (src + p) (dst + p) groups

/-- An encode pass `e` and a decode pass `d` of the same image stand at the same place (44_encoder R230): same cursor and
dictionary, and the canvas below the cursor agrees at byte 0 of every pixel-group (for `P = 1`: everywhere). -/
structure Mirrors (e d : State) : Prop where
  width : d.cfgWidth = e.cfgWidth
  height : d.cfgHeight = e.cfgHeight
  bpp : d.cfgBpp = e.cfgBpp
  encoding : e.cfgMode = .encode
  decoding : d.cfgMode = .decode
  phase : d.phase = e.phase
  cur : d.cur = e.cur
  dict : d.dict = e.dict
  canvas : ∀ a < e.cur, a % e.bpp = 0 → d.canvasByte a = e.canvasByte a

end Sys2Proof.Machine
end

