-- ==== Sys2Proof/Certificates/Slice0/Obligations.lean ====
section
/-! DEFINITION. The statements for the provers: each names the rules of spec/ it rests on. A statement whose docstring names a
log entry (notes/assumptions) rests there on a choice of the model. -/

open Sys2Proof Sys2Proof.Machine

/-- For every well-formed operation i (all 28 rows) and any bits after it, decoding in the part of the stream where i
stands (RAW in the literal prefix, the others in the main loop) reads exactly i and leaves exactly those bits.
(30_encoding.md sections 2 and 3 (rules R92, R94 to R98).) -/
def Obligations.DecodeInvertsEncode : Prop :=
  ∀ (i : Instr) (rest : List Bool), WellFormed i → decode i.part (encode i ++ rest) = .ok (i, rest)

/-- If the decoder reads the operation i from a bit string and leaves rest, then i is well-formed, stands in that part
of the stream, and the bit string is the encoding of i followed by rest: every bit of an encoding is accounted for and
each operation has one spelling. (30_encoding.md sections 2 and 3 (rules R92, R94 to R98).) -/
def Obligations.EncodeInvertsDecode : Prop :=
  ∀ (part : StreamPart) (bits : List Bool) (i : Instr) (rest : List Bool),
    decode part bits = .ok (i, rest) → WellFormed i ∧ i.part = part ∧ bits = encode i ++ rest

/-- In both parts of a stream, a bit string at least as long as the longest operation decodes to some operation: no
prefix and no field value is reserved. (30_encoding.md section 4 (rule R100); 30_encoding.md section 2 (rule R93).) -/
def Obligations.NoBitPatternIsIllegal : Prop :=
  ∀ (part : StreamPart) (bits : List Bool), longestOp ≤ bits.length →
    ∃ i rest, decode part bits = .ok (i, rest)

/-- If the encoding of one well-formed operation is an initial part of the encoding of another of the same part of the
stream, the two are the same operation. (30_encoding.md sections 2 and 3 (rules R93, R95 to R98).) -/
def Obligations.NoEncodingIsPrefixOfAnother : Prop :=
  ∀ i j : Instr, WellFormed i → WellFormed j → i.part = j.part → encode i <+: encode j → i = j

/-- The bytes of one operation of each family, written out bit by bit from the spec (LIT 30, DIC 3, CPREV 14, CUP 4,
CUPR 2, CUPL 2, CPREV2.V30 9, and a RAW byte), decode to that operation. (30_encoding.md section 3 (rules R94 to R98);
95_test_vectors.md section 2.5.) -/
def Obligations.WrittenOutBytesDecode : Prop :=
  let first (part : StreamPart) (bytes : List Byte) : Option Instr :=
    match decodeBytes part bytes with
    | .ok (i, _) => some i
    | .error _ => none
  first .rawBytes [0x12] = some (.raw 18) ∧
  first .operations [0b01000111, 0b10000000] = some (.lit 30) ∧
  first .operations [0b00011000] = some (.dic 3) ∧
  first .operations [0x8B] = some (.cprevV6 11) ∧
  first .operations [0b11000000, 0b01000000] = some (.cupV6 1) ∧
  first .operations [0b11011000] = some (.cuprV2 2) ∧
  first .operations [0b11101000] = some (.cuplV2 2) ∧
  first .operations [0xF0, 0x00, 0x00, 0x02, 0x40] = some (.cprev2V30 9)

/-- V2 gives its field, V6 its field plus 3, V14 and V30 their fields, V62 the number h * 65536 + l; only V62 with
both halves 0 among the well-formed forms gives 0. (30_encoding.md section 3 (rule R98); 30_encoding.md section 4
(rules R101, R102).) -/
def Obligations.RunCountValues : Prop :=
  (∀ a, (runLen (.v2 a)).toNat = a.toNat) ∧ (∀ b, (runLen (.v6 b)).toNat = b.toNat + 3) ∧
  (∀ c, (runLen (.v14 c)).toNat = c.toNat) ∧ (∀ d, (runLen (.v30 d)).toNat = d.toNat) ∧
  (∀ h l, (runLen (.v62 h l)).toNat = h.toNat * 65536 + l.toNat) ∧
  (∀ r : Run, r.wellFormed = true → (runLen r = 0 ↔ r = .v62 0 0))

/-- For every v below 2^32: encodeVarint writes the bits of the canonical form; the decoder reads that form back from
them, leaving what follows; its value is v. The converse fails for overlong forms: a well-formed form that is not
canonical is longer than the canonical form of its value. (R142.) -/
def Obligations.VarintRoundTrip : Prop :=
  (∀ v < 2 ^ 32,
    (∀ s, encodeVarint v s = (canonicalRun v).bits.foldl writeBit s) ∧
    (∀ rest, decodeRun listSource ((canonicalRun v).bits ++ rest) = .ok (canonicalRun v, rest)) ∧
    (runLen (canonicalRun v)).toNat = v) ∧
  (∀ r : Run, r.wellFormed = true → r ≠ canonicalRun (runLen r).toNat →
    (canonicalRun (runLen r).toNat).bits.length < r.bits.length)

/-- For every word of the opcode table that the decoder reads as i, from any state, the step after withFetchWord is
exec of i at the placed state, changed only in that the Bit Reader has moved past exactly the bits of i and OPC and
FLAG are filled as the prefix decoding says (OPC tells the copies apart). The placing is the model's choice (log entry
6). (30_encoding.md sections 2 and 6 (rules R92, R106); 70_reset_and_hazards.md section 2 (rule R292).) -/
def Obligations.PlacedWordRunsNext : Prop :=
  ∀ (s : State) (nbits w : Nat) (i : Instr), decodeTableWord nbits w = some i →
    let p := s.withFetchWord nbits w
    ∃ t, step p = exec i t ∧
      t = { p with spos := t.spos, bitCnt := t.bitCnt, bitBuf := t.bitBuf, opc := t.opc, flag := t.flag } ∧
      t.readerOk ∧ t.bitPos = p.bitPos + (encode i).length ∧
      (∀ v, i = .raw v → t.opc = s.opc ∧ t.flag = s.flag) ∧ (∀ v, i = .lit v → t.opc = 0 ∧ t.flag = 1) ∧
      (∀ k, i = .dic k → t.opc = 0 ∧ t.flag = 0) ∧
      (∀ op r, i = .copy op r → t.opc = op.opcode ∧ t.flag = s.flag)

/-- Where the Bit Reader invariant holds, the procedure of readBits(n) on SPOS, BITCNT, BITBUF, for every n, fails
exactly where the definition by BP fails, and otherwise returns the same value, leaves BP as that definition does,
keeps the invariant, and changes nothing but the three registers. readBits is that procedure at the widths that can be
called (log entry 19). (40_bit_primitives.md section 1 (rules R120, R121, R122, R123).) -/
def Obligations.RegisterReadIsBitPositionRead : Prop :=
  (∀ (n : Nat) (s : State), s.readerOk →
    match takeBits n s with
    | .error t => t = s ∧ readBitsAt n s = none
    | .ok (v, t) =>
      readBitsAt n s = some (v, t.bitPos) ∧ t.readerOk ∧
        t = { s with spos := t.spos, bitCnt := t.bitCnt, bitBuf := t.bitBuf }) ∧
  (∀ (n : Nat) (h : ReadWidth n) (s : State), readBits n h s = takeBits n s)

/-- Where the Bit Reader invariant holds: readBits(n) fails if and only if BP + n > 8 * SLEN; a failing read leaves
the state as it was; and a successful read does not depend on any stream byte at or past SLEN. (R124.) -/
def Obligations.TruncatedStreamExactly : Prop :=
  ∀ (n : Nat) (h : ReadWidth n) (s : State), s.readerOk →
    ((∃ t, readBits n h s = .error t) ↔ 8 * s.streamLen < s.bitPos + n) ∧
    (∀ t, readBits n h s = .error t → t = s) ∧
    (∀ m : Memory, (∀ a < s.streamLen, ({ s with stream := m } : State).streamByte a = s.streamByte a) →
      ∀ v t, readBits n h s = .ok (v, t) → readBits n h { s with stream := m } = .ok (v, { t with stream := m }))

/-- A successful run of the procedure of readBits(n), for every n, advances SPOS by ceil((n - BITCNT) / 8) bytes, none
when the bits held suffice, and so by at most two for n up to 16. (40_bit_primitives.md section 1 (rules R121, R122).)
-/
def Obligations.RefillsAreLazy : Prop :=
  ∀ (n : Nat) (s t : State) (v : BitVec n), takeBits n s = .ok (v, t) →
    t.spos = s.spos + (n - s.bitCnt.toNat + 7) / 8 ∧ (n ≤ 16 → t.spos ≤ s.spos + 2)

/-- For every list of fields (values with widths 1 to 16) written from the START state of the writer and flushed: OLEN
is the number of bits rounded up to bytes; a Bit Reader at its START state over those bytes reads each field, by the
procedure of readBits at its width (log entry 19), modulo its width, in order and without fault, and is left with the
padding bits, all zero. (R127.) -/
def Obligations.WrittenFieldsReadBack : Prop :=
  ∀ (fields : List (Nat × Nat)) (s d : State),
    (∀ f ∈ fields, 1 ≤ f.2 ∧ f.2 ≤ 16) →
    s.wAcc = 0 → s.wCnt = 0 → s.olen = 0 → s.out = [] →
    d.spos = 0 → d.bitCnt = 0 → d.bitBuf = 0 → d.streamLen = (flush (writeFields fields s)).olen →
    (∀ a < d.streamLen, Memory.read? (flush (writeFields fields s)).out a = some (d.streamByte a)) →
    let total := (fields.map Prod.snd).sum
    (flush (writeFields fields s)).olen = (total + 7) / 8 ∧
    ∃ u, readFields (fields.map Prod.snd) d = some (fields.map fun f => f.1 % 2 ^ f.2, u) ∧
      u.remainingBits = List.replicate ((8 - total % 8) % 8) false

/-- With l the list of r: if v stands in l, first at p, the new list is v, then l without entry p (and nothing changes
when p = 0); if v is absent it is v followed by the first seven entries of l. Every other list is unchanged. (R163.)
-/
def Obligations.UpdateMovesToFront : Prop :=
  ∀ (d : Dict) (r v : Byte),
    (∀ p, (dictList d r).toList[p]? = some v → (∀ q < p, (dictList d r).toList[q]? ≠ some v) →
      (dictList (update d r v) r).toList =
        v :: ((dictList d r).toList.take p ++ (dictList d r).toList.drop (p + 1)) ∧
      (p = 0 → update d r v = d)) ∧
    (v ∉ (dictList d r).toList →
      (dictList (update d r v) r).toList = v :: (dictList d r).toList.take 7) ∧
    (∀ q : Byte, q ≠ r → dictList (update d r v) q = dictList d q)

/-- find(r, v) is slot p if and only if p is the smallest of 0..7 with DICT[r][p] = v, it is none if and only if no
slot of list r holds v, and it depends on list r alone. (R164.) -/
def Obligations.FindReturnsSmallestSlot : Prop :=
  ∀ (d : Dict) (r v : Byte),
    (∀ p, find d r v = some p ↔
      ∃ h : p < 8, (dictList d r)[p] = v ∧ ∀ q, (hq : q < p) → (dictList d r)[q] ≠ v) ∧
    (find d r v = none ↔ ∀ slot : BitVec 3, lookup d r slot ≠ v) ∧
    (∀ d', dictList d' r = dictList d r → find d' r v = find d r v)

/-- The lists at START hold distinct values, update keeps every list distinct, and so a value stands in at most one
slot of a list. (That the lists stay distinct in every step of a pass is a clause of State.Inv, which StepKeepsInv
keeps.) (42_dictionary_cache.md (rules R161, R163, R166).) -/
def Obligations.UpdateKeepsSlotsDistinct : Prop :=
  dictDistinct seedDict ∧ (∀ (d : Dict) (r v : Byte), dictDistinct d → dictDistinct (update d r v)) ∧
  (∀ (d : Dict) (r : Byte) (x y : BitVec 3), dictDistinct d → lookup d r x = lookup d r y → x = y)

/-- For RAW and every copy, if exec gives a next state t then with any other dictionary it gives t with that
dictionary: the dictionary is neither read nor written. The same holds of the encoder's prefix byte and copy emission.
(R167.) -/
def Obligations.OnlyLitAndDicTouchDictionary : Prop :=
  (∀ (i : Instr) (s t : State) (d : Dict), (∀ v, i ≠ .lit v) → (∀ k, i ≠ .dic k) →
    exec i s = .next t → exec i { s with dict := d } = .next { t with dict := d }) ∧
  (∀ (s : State) (d : Dict), emitPrefixByte { s with dict := d } = { emitPrefixByte s with dict := d }) ∧
  (∀ (op : CopyOp) (n : Nat) (s : State) (d : Dict),
    emitCopy op n { s with dict := d } = { emitCopy op n s with dict := d })

/-- In PREFIX of a decode pass with part of the literal prefix left, RAW v completes: C[CUR] is v, VAL is v, CUR
advances by 1, PHASE is PREFIX, LOOP or DONE as CUR stands to NPRE and SIZE, and nothing else changes (the dictionary
included). Constructor raw. (43_decoder_ops.md section 1 (rules R182, R183).) -/
def Obligations.RawWritesPrefixByte : Prop :=
  ∀ (v : Byte) (s : State), s.phase = .litPrefix → s.cfgMode = .decode → s.cur < s.prefixBytes →
    exec (.raw v) s = .next { s with
      val := v, canvas := Memory.write s.canvas s.cur v, cur := s.cur + 1,
      phase := if s.cur + 1 < s.prefixBytes then .litPrefix else if s.cur + 1 < s.size then .mainLoop else .done }

/-- In LOOP of a decode pass with P <= CUR < SIZE, LIT v completes: REF is C[CUR - P], VAL is v, C[CUR] is v,
update(REF, v) is made, CUR advances by P, PHASE is DONE when the canvas is full, and nothing else changes.
Constructor lit. (43_decoder_ops.md section 2 (rule R185); 42_dictionary_cache.md (rule R165).) -/
def Obligations.LitWritesByteAndUpdatesDictionary : Prop :=
  ∀ (v : Byte) (s : State), s.phase = .mainLoop → s.cfgMode = .decode → s.bpp ≤ s.cur → s.cur < s.size →
    exec (.lit v) s = .next { s with
      ref := s.canvasByte (s.cur - s.bpp), val := v, canvas := Memory.write s.canvas s.cur v,
      dict := update s.dict (s.canvasByte (s.cur - s.bpp)) v, cur := s.cur + s.bpp,
      phase := if s.size ≤ s.cur + s.bpp then .done else .mainLoop }

/-- In LOOP of a decode pass with P <= CUR < SIZE, DIC k completes: SLOT is k, REF is C[CUR - P], VAL is DICT[REF][k]
before the update, C[CUR] is VAL, update(REF, VAL) is made, CUR advances by P, PHASE is DONE when the canvas is full,
and nothing else changes. Constructor dic. (43_decoder_ops.md section 2 (rule R186); 42_dictionary_cache.md (rules
R162, R165).) -/
def Obligations.DicWritesSlotAndUpdatesDictionary : Prop :=
  ∀ (k : BitVec 3) (s : State), s.phase = .mainLoop → s.cfgMode = .decode → s.bpp ≤ s.cur → s.cur < s.size →
    let r := s.canvasByte (s.cur - s.bpp)
    exec (.dic k) s = .next { s with
      slot := k, ref := r, val := lookup s.dict r k, canvas := Memory.write s.canvas s.cur (lookup s.dict r k),
      dict := update s.dict r (lookup s.dict r k), cur := s.cur + s.bpp,
      phase := if s.size ≤ s.cur + s.bpp then .done else .mainLoop }

/-- In LOOP of a decode pass with P <= CUR where the run fits the canvas, CPREV in every form (constructors cprevV2,
cprevV6, cprevV14, cprevV30, cprevV62) completes: LEN, W and SRC are recorded with SRC = W - P, LEN * P bytes are
copied forward from SRC to CUR, CUR advances by LEN * P, PHASE is DONE when the canvas is full, and nothing else
changes. (43_decoder_ops.md section 3 (rules R187, R188).) -/
def Obligations.CprevCopiesPreviousPixel : Prop :=
  ∀ (r : Run) (s : State), s.phase = .mainLoop → s.cfgMode = .decode → s.bpp ≤ s.cur →
    s.cur + (runLen r).toNat * s.bpp ≤ s.size →
    let src := s.cur - s.bpp
    exec (.copy .cprev r) s = .next { s with
      len := runLen r, w := s.cur, src := src,
      canvas := copyForward s.canvas src s.cur ((runLen r).toNat * s.bpp),
      cur := s.cur + (runLen r).toNat * s.bpp,
      phase := if s.size ≤ s.cur + (runLen r).toNat * s.bpp then .done else .mainLoop }

/-- In LOOP of a decode pass where the run fits the canvas, CUP in every form (constructors cupV2, cupV6, cupV14,
cupV30, cupV62) completes: LEN, W and SRC are recorded with SRC = W - L, or 0 when W < L, LEN * P bytes are copied
forward from SRC to CUR, CUR advances by LEN * P, PHASE is DONE when the canvas is full, and nothing else changes.
(43_decoder_ops.md section 3 (rules R187, R189).) -/
def Obligations.CupCopiesPreviousLine : Prop :=
  ∀ (r : Run) (s : State), s.phase = .mainLoop → s.cfgMode = .decode → 
    s.cur + (runLen r).toNat * s.bpp ≤ s.size →
    let src := if s.lineBytes ≤ s.cur then s.cur - s.lineBytes else 0
    exec (.copy .cup r) s = .next { s with
      len := runLen r, w := s.cur, src := src,
      canvas := copyForward s.canvas src s.cur ((runLen r).toNat * s.bpp),
      cur := s.cur + (runLen r).toNat * s.bpp,
      phase := if s.size ≤ s.cur + (runLen r).toNat * s.bpp then .done else .mainLoop }

/-- In LOOP of a decode pass with P <= CUR where the run fits the canvas, CUPR in every form (constructors cuprV2,
cuprV6, cuprV14, cuprV30, cuprV62) completes: LEN, W and SRC are recorded with SRC = W - L + P, or P when W <= L, LEN
* P bytes are copied forward from SRC to CUR, CUR advances by LEN * P, PHASE is DONE when the canvas is full, and
nothing else changes. (43_decoder_ops.md section 3 (rules R187, R190).) -/
def Obligations.CuprCopiesUpRight : Prop :=
  ∀ (r : Run) (s : State), s.phase = .mainLoop → s.cfgMode = .decode → s.bpp ≤ s.cur →
    s.cur + (runLen r).toNat * s.bpp ≤ s.size →
    let src := if s.lineBytes < s.cur then s.cur - s.lineBytes + s.bpp else s.bpp
    exec (.copy .cupr r) s = .next { s with
      len := runLen r, w := s.cur, src := src,
      canvas := copyForward s.canvas src s.cur ((runLen r).toNat * s.bpp),
      cur := s.cur + (runLen r).toNat * s.bpp,
      phase := if s.size ≤ s.cur + (runLen r).toNat * s.bpp then .done else .mainLoop }

/-- In LOOP of a decode pass where the run fits the canvas, CUPL in every form (constructors cuplV2, cuplV6, cuplV14,
cuplV30, cuplV62) completes: LEN, W and SRC are recorded with SRC = W - L - P, or 0 when W <= L + P, LEN * P bytes are
copied forward from SRC to CUR, CUR advances by LEN * P, PHASE is DONE when the canvas is full, and nothing else
changes. (43_decoder_ops.md section 3 (rules R187, R191).) -/
def Obligations.CuplCopiesUpLeft : Prop :=
  ∀ (r : Run) (s : State), s.phase = .mainLoop → s.cfgMode = .decode → 
    s.cur + (runLen r).toNat * s.bpp ≤ s.size →
    let src := if s.lineBytes + s.bpp < s.cur then s.cur - s.lineBytes - s.bpp else 0
    exec (.copy .cupl r) s = .next { s with
      len := runLen r, w := s.cur, src := src,
      canvas := copyForward s.canvas src s.cur ((runLen r).toNat * s.bpp),
      cur := s.cur + (runLen r).toNat * s.bpp,
      phase := if s.size ≤ s.cur + (runLen r).toNat * s.bpp then .done else .mainLoop }

/-- In LOOP of a decode pass where the run fits the canvas, CPREV2 in every form (constructors cprev2V2, cprev2V6,
cprev2V14, cprev2V30, cprev2V62) completes: LEN, W and SRC are recorded with SRC = W - 2P, or 0 when W < 2P, LEN * P
bytes are copied forward from SRC to CUR, CUR advances by LEN * P, PHASE is DONE when the canvas is full, and nothing
else changes. (43_decoder_ops.md section 3 (rules R187, R192).) -/
def Obligations.Cprev2CopiesTwoBack : Prop :=
  ∀ (r : Run) (s : State), s.phase = .mainLoop → s.cfgMode = .decode → 
    s.cur + (runLen r).toNat * s.bpp ≤ s.size →
    let src := if 2 * s.bpp ≤ s.cur then s.cur - 2 * s.bpp else 0
    exec (.copy .cprev2 r) s = .next { s with
      len := runLen r, w := s.cur, src := src,
      canvas := copyForward s.canvas src s.cur ((runLen r).toNat * s.bpp),
      cur := s.cur + (runLen r).toNat * s.bpp,
      phase := if s.size ≤ s.cur + (runLen r).toNat * s.bpp then .done else .mainLoop }

/-- For every copy in every form with source offset SRC: if W + LEN * P > SIZE, exec takes the fault: FAULTCODE is
CanvasOverrun, PHASE is FAULT, LEN, W and SRC are recorded, and nothing else changes (no canvas byte, CUR,
dictionary). (60_exceptions.md section 1 (rules R260, R262); 60_exceptions.md section 4 (rule R267); 43_decoder_ops.md
section 3 (rule R187).) -/
def Obligations.CopyOverrunTakesFault : Prop :=
  ∀ (op : CopyOp) (r : Run) (s : State) (src : Nat),
    sourceOffset op s.bpp s.lineBytes s.cur = some src → s.size < s.cur + (runLen r).toNat * s.bpp →
    exec (.copy op r) s = .next { s with
      len := runLen r, w := s.cur, src := src, faultCode := .canvasOverrun, phase := .fault }

/-- At a loop position every source offset is a multiple of P and at most W, and equals W only for CUPR in a one-
pixel-wide image. With d = W - SRC > 0 a copy of k bytes gives C[W + i] = C0[SRC + i mod d] for i < k and changes no
other byte; with d = 0 no byte changes. Copying n groups of P bytes, each read whole before it is written, gives the
same canvas as copying byte by byte. (R193.) -/
def Obligations.CopyRepeatsPeriod : Prop :=
  (∀ (op : CopyOp) (s : State), s.configLegal = true → 0 < s.size → 2 * s.bpp ≤ s.cur → s.cur % s.bpp = 0 →
    ∃ src, sourceOffset op s.bpp s.lineBytes s.cur = some src ∧ src % s.bpp = 0 ∧ src ≤ s.cur ∧
      (src = s.cur → op = .cupr ∧ s.cfgWidth = 1)) ∧
  (∀ (c : Memory) (src w k : Nat),
    (src < w →
      (∀ i < k, canvasAt (copyForward c src w k) (w + i) = canvasAt c (src + i % (w - src))) ∧
      (∀ a, a < w ∨ w + k ≤ a → canvasAt (copyForward c src w k) a = canvasAt c a)) ∧
    (src = w → ∀ a, canvasAt (copyForward c src w k) a = canvasAt c a)) ∧
  (∀ (c : Memory) (p src w n : Nat), src + p ≤ w ∨ src = w →
    ∀ a, canvasAt (copyGroups c p src w n) a = canvasAt (copyForward c src w (n * p)) a)

/-- decodeVarint reads V62 with value 0 from 62 zero bits without fault; in LOOP of a decode pass with P <= CUR <
SIZE, each of the five copies with that run count completes, recording LEN, W and SRC and changing nothing else.
(R144.) -/
def Obligations.ZeroLengthCopyDoesNothing : Prop :=
  (∀ rest, decodeRun listSource (List.replicate 62 false ++ rest) = .ok (.v62 0 0, rest)) ∧
  (runLen (.v62 0 0)).toNat = 0 ∧
  (∀ (op : CopyOp) (s : State), s.phase = .mainLoop → s.cfgMode = .decode → s.bpp ≤ s.cur → s.cur < s.size →
    ∃ src, sourceOffset op s.bpp s.lineBytes s.cur = some src ∧
      exec (.copy op (.v62 0 0)) s = .next { s with len := 0, w := s.cur, src := src })

/-- In a decode pass, if LIT or DIC gives a next state: every canvas byte but C[CUR] reads as before, CUR advances by
P, every dictionary list but that of the reference byte is unchanged, and the configuration, STREAM, OUT, the Bit
Reader and Writer registers, FAULTCODE, OPC, FLAG, LEN, W and SRC are unchanged (SLOT too, for LIT).
(43_decoder_ops.md section 2 (rules R185, R186); 42_dictionary_cache.md (rules R160, R163).) -/
def Obligations.LitAndDicWriteOneByte : Prop :=
  ∀ (i : Instr) (s t : State), ((∃ v, i = .lit v) ∨ ∃ k, i = .dic k) → s.cfgMode = .decode → exec i s = .next t →
    (∀ a, a ≠ s.cur → t.canvasByte a = s.canvasByte a) ∧ t.cur = s.cur + s.bpp ∧
    (∀ r : Byte, r ≠ s.canvasByte (s.cur - s.bpp) → dictList t.dict r = dictList s.dict r) ∧
    ((∃ v, i = .lit v) → t.slot = s.slot) ∧
    t = { s with
      canvas := t.canvas, cur := t.cur, dict := t.dict, phase := t.phase, slot := t.slot, val := t.val, ref := t.ref }

/-- In a decode pass, if RAW gives a next state: every canvas byte but C[CUR] reads as before, CUR advances by 1, and
only CANVAS, CUR, PHASE and VAL may have changed. If a copy in any form gives a next state: every canvas byte outside
the LEN * P bytes from CUR on reads as before, CUR advances by LEN * P (when the run does not fit, no canvas byte and
not CUR), and only CANVAS, CUR, PHASE, FAULTCODE, LEN, W and SRC may have changed. (43_decoder_ops.md sections 1 and 3
(rules R182, R187); 60_exceptions.md section 1 (rule R262).) -/
def Obligations.RawAndCopiesWriteOnlyTheirBytes : Prop :=
  (∀ (v : Byte) (s t : State), s.cfgMode = .decode → exec (.raw v) s = .next t →
    (∀ a, a ≠ s.cur → t.canvasByte a = s.canvasByte a) ∧ t.cur = s.cur + 1 ∧
    t = { s with canvas := t.canvas, cur := t.cur, phase := t.phase, val := t.val }) ∧
  (∀ (op : CopyOp) (r : Run) (s t : State), s.cfgMode = .decode → exec (.copy op r) s = .next t →
    let count := (runLen r).toNat * s.bpp
    (∀ a, a < s.cur ∨ s.cur + count ≤ a → t.canvasByte a = s.canvasByte a) ∧
    (s.size < s.cur + count → t.canvas = s.canvas ∧ t.cur = s.cur) ∧
    (s.cur + count ≤ s.size → t.cur = s.cur + count ∧ t.faultCode = s.faultCode) ∧
    t = { s with
      canvas := t.canvas, cur := t.cur, phase := t.phase, faultCode := t.faultCode, len := t.len, w := t.w,
      src := t.src })

/-- At a loop position of a decode pass over an image one pixel wide, CUPR in every form whose run fits the canvas
completes with SRC = W, CUR advances by LEN * P, and every canvas byte reads as before. (43_decoder_ops.md section 3
(rule R190, corner case b).) -/
def Obligations.OnePixelWideUpRightKeepsCanvas : Prop :=
  ∀ (r : Run) (s : State), s.phase = .mainLoop → s.cfgMode = .decode → s.configLegal = true → s.cfgWidth = 1 →
    2 * s.bpp ≤ s.cur → s.cur + (runLen r).toNat * s.bpp ≤ s.size →
    ∃ t, exec (.copy .cupr r) s = .next t ∧ t.src = s.cur ∧ t.cur = s.cur + (runLen r).toNat * s.bpp ∧
      ∀ a, t.canvasByte a = s.canvasByte a

/-- In a running, unfinished decode pass whose Bit Reader invariant holds, if the stream bits from BP on decode to i,
the step is exec of i at the state whose reader has moved past exactly the bits of i, with a pending START dropped and
OPC and FLAG filled as the prefix decoding says, and nothing else changed. (43_decoder_ops.md section 1 (rules R180,
R184); 10_state.md section 3 (rule R27); 30_encoding.md section 2 (rule R92).) -/
def Obligations.StepRunsDecodedInstruction : Prop :=
  ∀ (s : State) (i : Instr) (rest : List Bool),
    s.running = true → s.unfinished = true → s.cfgMode = .decode → s.readerOk →
    decode s.part s.remainingBits = .ok (i, rest) →
    ∃ t, step s = exec i t ∧
      t = { s with
        ctrlStart := false, spos := t.spos, bitCnt := t.bitCnt, bitBuf := t.bitBuf, opc := t.opc, flag := t.flag } ∧
      t.readerOk ∧ t.bitPos = s.bitPos + (encode i).length ∧ t.remainingBits = rest ∧
      (∀ v, i = .raw v → t.opc = s.opc ∧ t.flag = s.flag) ∧ (∀ v, i = .lit v → t.opc = 0 ∧ t.flag = 1) ∧
      (∀ k, i = .dic k → t.opc = 0 ∧ t.flag = 0) ∧
      (∀ op r, i = .copy op r → t.opc = op.opcode ∧ t.flag = s.flag)

/-- In a running, unfinished decode pass whose Bit Reader invariant holds, if the stream bits from BP on end before an
operation does, left being the bits the failing read found, the step enters FAULT with code TruncatedStream; the Bit
Reader registers are those before the failing read (the invariant holds and exactly the bits left are unread), OPC and
FLAG may have changed, a pending START is dropped, and nothing else has changed. (60_exceptions.md section 1 (rules
R260, R261); 60_exceptions.md section 4 (rule R267); 40_bit_primitives.md section 1 (rule R124).) -/
def Obligations.TruncatedOperationTakesFault : Prop :=
  ∀ (s : State) (left : List Bool), s.running = true → s.unfinished = true → s.cfgMode = .decode → s.readerOk →
    decodePart listSource s.part s.remainingBits = .error left →
    ∃ t, step s = .next t ∧
      t = { s with
        ctrlStart := false, spos := t.spos, bitCnt := t.bitCnt, bitBuf := t.bitBuf, opc := t.opc, flag := t.flag,
        faultCode := .truncatedStream, phase := .fault } ∧
      t.readerOk ∧ t.remainingBits = left ∧ s.bitPos ≤ t.bitPos ∧ t.bitPos ≤ 8 * s.streamLen

/-- If a step of a running pass ends in PHASE = FAULT, FAULTCODE is TruncatedStream or CanvasOverrun, the pass is a
decode pass, and CUR, CANVAS, DICT, OUT and the five CFG registers are unchanged. (A claim about the machine; the host
may not rely on the canvas, log entry 8.) (60_exceptions.md section 1 (rules R261, R262); 60_exceptions.md section 4
(rule R267).) -/
def Obligations.FaultingStepKeepsCanvasAndDictionary : Prop :=
  ∀ s t : State, s.running = true → step s = .next t → t.phase = .fault →
    (t.faultCode = .truncatedStream ∨ t.faultCode = .canvasOverrun) ∧ s.cfgMode = .decode ∧
    t.cur = s.cur ∧ t.canvas = s.canvas ∧ t.dict = s.dict ∧ t.out = s.out ∧ t.cfgWidth = s.cfgWidth ∧
    t.cfgHeight = s.cfgHeight ∧ t.cfgBpp = s.cfgBpp ∧ t.cfgMode = s.cfgMode ∧ t.cfgSlen = s.cfgSlen

/-- While PHASE is IDLE, DONE or FAULT and no START is pending, any number of steps leaves the whole state unchanged:
a recorded fault stays and a second cannot occur. That a waiting machine steps to itself is the model's choice (log
entry 5). (60_exceptions.md section 4 (rules R268, R269); 70_reset_and_hazards.md section 1 (rule R290).) -/
def Obligations.EndedPassWaitsForStart : Prop :=
  ∀ (s : State) (k : Nat), s.running = false → s.ctrlStart = false → steps k s = .next s

/-- With no pass running, a legal configuration and CFG_MODE = DECODE, the host's START, which is also the step that
finds the command bit up (log entry 4), clears FAULTCODE, CUR, the Bit Reader, seeds every dictionary list, sets PHASE
to PREFIX (DONE if SIZE is 0) and leaves the rest, the memories it does not list among it, unchanged. That the
transients keep their values, which R38 leaves unspecified after START, is the model's choice (log entry 11).
(70_reset_and_hazards.md section 1 (rule R291, column DECODE); 43_decoder_ops.md section 1 (rule R181); 10_state.md
sections 5 and 8 (rules R33, R38).) -/
def Obligations.StartBeginsDecodePass : Prop :=
  ∀ s : State, s.running = false → s.configLegal = true → s.cfgMode = .decode →
    let t : State := { s with
      ctrlStart := false, faultCode := .none, cur := 0, spos := 0, bitCnt := 0, bitBuf := 0,
      dict := Vector.replicate 256 #v[0, 1, 2, 3, 4, 5, 6, 7],
      phase := if s.cfgWidth = 0 ∨ s.cfgHeight = 0 then .done else .litPrefix }
    hostStart s = t ∧ (s.ctrlStart = true → step s = .next t)

/-- With no pass running, a legal configuration and CFG_MODE = ENCODE, the host's START, which is also the step that
finds the command bit up (log entry 4), clears FAULTCODE, CUR, the Bit Writer and OUT, seeds every dictionary list,
sets PHASE to PREFIX (DONE if SIZE is 0) and leaves the rest, the memories it does not list among it, unchanged. That
the transients keep their values, which R38 leaves unspecified after START, is the model's choice (log entry 11).
(70_reset_and_hazards.md section 1 (rule R291, column ENCODE); 44_encoder.md section 1 (rule R221); 10_state.md
sections 5 and 8 (rules R33, R38).) -/
def Obligations.StartBeginsEncodePass : Prop :=
  ∀ s : State, s.running = false → s.configLegal = true → s.cfgMode = .encode →
    let t : State := { s with
      ctrlStart := false, faultCode := .none, cur := 0, wAcc := 0, wCnt := 0, olen := 0, out := [],
      dict := Vector.replicate 256 #v[0, 1, 2, 3, 4, 5, 6, 7],
      phase := if s.cfgWidth = 0 ∨ s.cfgHeight = 0 then .done else .litPrefix }
    hostStart s = t ∧ (s.ctrlStart = true → step s = .next t)

/-- With no pass running, no command bit up and CFG_BPP 0 or 2, the host's START changes nothing, whatever is written
afterwards; and a step that finds the command bit up only takes it down. While a pass runs, the host's START changes
nothing, and a step does the same whether or not the command bit is up. An accepted START is the step that finds the
bit up (the bit is the model's form of the command, log entry 4). (60_exceptions.md section 5 (rule R270);
60_exceptions.md section 6 (rule R273); 10_state.md section 5 (rule R33).) -/
def Obligations.RefusedStartHasNoEffect : Prop :=
  (∀ s : State, s.running = false → s.cfgBpp = 0 ∨ s.cfgBpp = 2 →
    step s = .next { s with ctrlStart := false } ∧ (s.ctrlStart = false → hostStart s = s)) ∧
  (∀ s : State, s.running = true → hostStart s = s ∧
    step { s with ctrlStart := true } = step { s with ctrlStart := false }) ∧
  (∀ s : State, s.running = false → step { s with ctrlStart := true } = .next (hostStart s))

/-- For every step that gives a next state t: a phase without a running pass stays, unless an accepted START makes it
PREFIX or (SIZE = 0) DONE; from PREFIX the step stays there with CUR < NPRE, or goes to LOOP with NPRE <= CUR < SIZE,
to DONE with CUR >= SIZE, or to FAULT with a code; from LOOP it stays with CUR < SIZE, or goes to DONE with CUR >=
SIZE, or to FAULT with a code. (10_state.md section 5 (rule R31); 43_decoder_ops.md section 1 (rules R180, R183).) -/
def Obligations.PhaseMovesOnlyAsAllowed : Prop :=
  ∀ s t : State, step s = .next t →
    (s.running = false → t.phase = s.phase ∨
      (s.starting ∧ t.phase = if s.size = 0 then .done else .litPrefix)) ∧
    (s.phase = .litPrefix →
      (t.phase = .litPrefix ∧ t.cur < t.prefixBytes) ∨
      (t.phase = .mainLoop ∧ t.prefixBytes ≤ t.cur ∧ t.cur < t.size) ∨
      (t.phase = .done ∧ t.size ≤ t.cur) ∨ (t.phase = .fault ∧ t.faultCode ≠ .none)) ∧
    (s.phase = .mainLoop →
      (t.phase = .mainLoop ∧ t.cur < t.size) ∨ (t.phase = .done ∧ t.size ≤ t.cur) ∨
      (t.phase = .fault ∧ t.faultCode ≠ .none))

/-- Whatever a step does, if it gives a next state, CFG_WIDTH, CFG_HEIGHT, CFG_BPP, CFG_MODE, CFG_SLEN and STREAM are
unchanged. (10_state.md section 1 (rule R20); 20_memory.md sections 1 and 5 (rules R60, R72); 70_reset_and_hazards.md
section 3 (rule R295).) -/
def Obligations.NoStepWritesConfigurationOrStream : Prop :=
  ∀ s t : State, step s = .next t →
    t.cfgWidth = s.cfgWidth ∧ t.cfgHeight = s.cfgHeight ∧ t.cfgBpp = s.cfgBpp ∧ t.cfgMode = s.cfgMode ∧
    t.cfgSlen = s.cfgSlen ∧ t.stream = s.stream

/-- A step of a decode pass leaves OUT, OLEN, WACC and WCNT unchanged. A step of an encode pass leaves CANVAS, SPOS,
BITCNT, BITBUF, OPC, FLAG, SLOT, LEN, W, SRC and FAULTCODE unchanged. (That an encode step leaves the transients OPC,
FLAG, SLOT, LEN, W and SRC alone is the model's choice, log entry 11.) (20_memory.md section 1 (rule R60); 10_state.md
sections 2, 3 and 5 (rules R23, R24, R26, R28, R29, R32); 44_encoder.md section 3 (rules R227, R229).) -/
def Obligations.EnginesKeepToTheirMemories : Prop :=
  ∀ s t : State, s.running = true → step s = .next t →
    (s.cfgMode = .decode → t.out = s.out ∧ t.olen = s.olen ∧ t.wAcc = s.wAcc ∧ t.wCnt = s.wCnt) ∧
    (s.cfgMode = .encode →
      t.canvas = s.canvas ∧ t.spos = s.spos ∧ t.bitCnt = s.bitCnt ∧ t.bitBuf = s.bitBuf ∧ t.opc = s.opc ∧
      t.flag = s.flag ∧ t.slot = s.slot ∧ t.len = s.len ∧ t.w = s.w ∧ t.src = s.src ∧ t.faultCode = s.faultCode)

/-- A step of a running pass never lowers CUR. From a state with the invariant, a step that ends the pass normally
leaves CUR equal to SIZE. (10_state.md section 6 (rule R34 c); 10_state.md section 3 (rule R25); 43_decoder_ops.md
section 4 (rule R195).) -/
def Obligations.CursorNeverDecreases : Prop :=
  ∀ s t : State, s.running = true → step s = .next t →
    s.cur ≤ t.cur ∧ (s.Inv → t.phase = .done → t.cur = t.size)

/-- In the reset state the host reads PHASE 0 (IDLE) and FAULTCODE 0, no pass runs, and a step changes nothing:
nothing executes until the host issues START. (That no START is pending at reset, and that a waiting machine steps to
itself, are the model's, log entries 3 and 5.) (70_reset_and_hazards.md section 1 (rule R290); 10_state.md section 8
(rule R38).) -/
def Obligations.ResetIsIdleWithoutFault : Prop :=
  State.reset.phase = .idle ∧ hostReadPhase State.reset = 0 ∧ hostReadFaultCode State.reset = 0 ∧
  State.reset.running = false ∧ step State.reset = .next State.reset

/-- State.reset satisfies State.Inv. (10_state.md section 8 (rule R38).) -/
def Obligations.InvHoldsAtReset : Prop :=
  State.reset.Inv

/-- From every state with State.Inv (canonical memories, FAULTCODE set exactly in FAULT, and while a pass runs: a
legal configuration, the cursor invariants, distinct dictionary slots, and the Bit Reader or Bit Writer invariant of
the engine), a step that gives a next state gives one with State.Inv. (10_state.md sections 3 and 6 (rules R26, R28,
R34, R36).) -/
def Obligations.StepKeepsInv : Prop :=
  ∀ s t : State, s.Inv → step s = .next t → t.Inv

/-- No state with State.Inv steps to a fault or a refusal of the model: in particular no canvas access falls outside
the canvas, in either engine, and every operation executes. (20_memory.md section 4 (rule R67); 44_encoder.md section
3 (rule R229).) -/
def Obligations.InvStepsNeverStop : Prop :=
  ∀ s : State, s.Inv → ∃ t, step s = .next t

/-- Whatever the host writes to the configuration registers, STREAM or CANVAS, or to CTRL.START, a state with
State.Inv stays one; so State.Inv holds of every state that host writes and steps reach from reset. Outside the time
from START to the end of a pass every write is accepted: a CFG write stores its value in that register, which reads
back as it, and changes nothing else; filling STREAM or CANVAS from a on with bytes makes byte a + k read as the k-th
of them, leaves every other byte as it was and changes nothing else. (That a byte written at or past SLEN or SIZE is
kept is the model's choice, log entry 25.) (60_exceptions.md section 6 (rule R274); 10_state.md sections 1, 2 and 5
(rules R20, R22, R23, R33); 70_reset_and_hazards.md section 2 (rule R292).) -/
def Obligations.HostWritesKeepInv : Prop :=
  (∀ s t : State, s.Inv →
    ((∃ v, hostWriteWidth v s = .next t) ∨ (∃ v, hostWriteHeight v s = .next t) ∨ (∃ v, hostWriteBpp v s = .next t) ∨
      (∃ m, hostWriteMode m s = .next t) ∨ (∃ v, hostWriteSlen v s = .next t) ∨
      (∃ a bs, hostFillStream a bs s = .next t) ∨ (∃ a bs, hostFillCanvas a bs s = .next t) ∨ t = hostStart s) →
    t.Inv) ∧
  (∀ s : State, s.busy = false →
    (∀ v, ∃ t, hostWriteWidth v s = .next t ∧ t = { s with cfgWidth := v } ∧ hostReadWidth t = v) ∧
    (∀ v, ∃ t, hostWriteHeight v s = .next t ∧ t = { s with cfgHeight := v } ∧ hostReadHeight t = v) ∧
    (∀ v, ∃ t, hostWriteBpp v s = .next t ∧ t = { s with cfgBpp := v } ∧ hostReadBpp t = v) ∧
    (∀ m, ∃ t, hostWriteMode m s = .next t ∧ t = { s with cfgMode := m } ∧ hostReadMode t = m.code) ∧
    (∀ v, ∃ t, hostWriteSlen v s = .next t ∧ t = { s with cfgSlen := v } ∧ hostReadSlen t = v) ∧
    (∀ (a : Nat) (bytes : List Byte), ∃ t, hostFillStream a bytes s = .next t ∧ t = { s with stream := t.stream } ∧
      (∀ k v, bytes[k]? = some v → t.streamByte (a + k) = v) ∧
      (∀ b, b < a ∨ a + bytes.length ≤ b → t.streamByte b = s.streamByte b)) ∧
    (∀ (a : Nat) (bytes : List Byte), ∃ t, hostFillCanvas a bytes s = .next t ∧ t = { s with canvas := t.canvas } ∧
      (∀ k v, bytes[k]? = some v → t.canvasByte (a + k) = v) ∧
      (∀ b, b < a ∨ a + bytes.length ≤ b → t.canvasByte b = s.canvasByte b)))

/-- While no pass runs the host reads the five CFG registers, CUR, SPOS, BITCNT, BITBUF, WACC, WCNT, OLEN and OUT
exactly, and, except at FAULT, CANVAS and DICT exactly: at DONE, as the pass left them. At FAULT it reads of CANVAS
and DICT a free value (log entry 8). No rewriting of a CFG register at DONE changes what it reads of any item that is
not a CFG register (log entry 22). From START to the end of a pass every read of those items gives a free value (log
entry 23) and every host write is refused (log entry 13). PHASE and FAULTCODE read as they are at any time.
(70_reset_and_hazards.md section 3 (rules R294, R295, R298); 60_exceptions.md sections 4 and 6 (rules R268, R274);
20_memory.md section 5 (rule R71); 10_state.md sections 1 and 5 (rules R20, R31, R32).) -/
def Obligations.HostSeesResultOnlyAtDone : Prop :=
  (∀ (s : State) (a : Nat), s.busy = false →
    hostReadWidth s = s.cfgWidth ∧ hostReadHeight s = s.cfgHeight ∧ hostReadBpp s = s.cfgBpp ∧
    hostReadMode s = s.cfgMode.code ∧ hostReadSlen s = s.cfgSlen ∧ hostReadCur s = s.cur ∧ hostReadSpos s = s.spos ∧
    hostReadBitCnt s = s.bitCnt ∧ hostReadBitBuf s = s.bitBuf ∧ hostReadWAcc s = s.wAcc ∧ hostReadWCnt s = s.wCnt ∧
    hostReadOlen s = s.olen ∧ hostReadOut a s = Memory.read? s.out a) ∧
  (∀ (s : State) (a : Nat) (r : Byte) (k : BitVec 3), s.busy = false → s.phase ≠ .fault →
    hostReadCanvas a s = s.canvasByte a ∧ hostReadDict r k s = lookup s.dict r k) ∧
  (∀ (s : State) (a : Nat) (r : Byte) (k : BitVec 3), s.phase = .fault →
    hostReadCanvas a s = Config.hidden (s, HostItem.canvas a) ∧ hostReadDict r k s = Config.hidden (s, HostItem.dict r k)) ∧
  (∀ (s t : State) (a : Nat) (r : Byte) (k : BitVec 3), s.phase = .done →
    ((∃ v, hostWriteWidth v s = .next t) ∨ (∃ v, hostWriteHeight v s = .next t) ∨ (∃ v, hostWriteBpp v s = .next t) ∨
      (∃ m, hostWriteMode m s = .next t) ∨ (∃ v, hostWriteSlen v s = .next t)) →
    hostReadCanvas a t = hostReadCanvas a s ∧ hostReadOut a t = hostReadOut a s ∧ hostReadOlen t = hostReadOlen s ∧
    hostReadDict r k t = hostReadDict r k s ∧ hostReadCur t = hostReadCur s ∧ hostReadSpos t = hostReadSpos s ∧
    hostReadBitCnt t = hostReadBitCnt s ∧ hostReadBitBuf t = hostReadBitBuf s ∧ hostReadWAcc t = hostReadWAcc s ∧
    hostReadWCnt t = hostReadWCnt s) ∧
  (∀ (s t : State) (a : Nat) (r : Byte) (k : BitVec 3), s.running = true ∨ s.ctrlStart = true →
    hostReadWidth s = Config.hidden (s, HostItem.cfgWidth) ∧ hostReadHeight s = Config.hidden (s, HostItem.cfgHeight) ∧
    hostReadBpp s = Config.hidden (s, HostItem.cfgBpp) ∧ hostReadMode s = Config.hidden (s, HostItem.cfgMode) ∧
    hostReadSlen s = Config.hidden (s, HostItem.cfgSlen) ∧ hostReadCur s = Config.hidden (s, HostItem.cur) ∧
    hostReadSpos s = Config.hidden (s, HostItem.spos) ∧ hostReadBitCnt s = Config.hidden (s, HostItem.bitCnt) ∧
    hostReadBitBuf s = Config.hidden (s, HostItem.bitBuf) ∧ hostReadWAcc s = Config.hidden (s, HostItem.wAcc) ∧
    hostReadWCnt s = Config.hidden (s, HostItem.wCnt) ∧ hostReadOlen s = Config.hidden (s, HostItem.olen) ∧
    hostReadDict r k s = Config.hidden (s, HostItem.dict r k) ∧
    hostReadCanvas a s = Config.hidden (s, HostItem.canvas a) ∧ hostReadOut a s = Config.hidden (s, HostItem.out a) ∧
    hostWrite s t = .refused .hostWriteDuringPass) ∧
  (∀ s : State, hostReadPhase s = s.phase.code ∧ hostReadFaultCode s = s.faultCode.code)

/-- In a running pass with the invariant: CUR and SIZE are below 2^34; in a decode pass SPOS is below 2^32 and BP
below 2^35, in an encode pass OLEN is below 2^35; for every run count LEN * P is below 2^34 and the sum tested for
CanvasOverrun below 2^35; and a step leaves OLEN of an encode pass below 2^35 and W and SRC as they were or below
2^34. (10_state.md section 3 (rules R25, R26, R27, R28, R29); 70_reset_and_hazards.md section 3 (rule R299);
44_encoder.md section 4 (rule R234).) -/
def Obligations.RegisterWidthsSuffice : Prop :=
  ∀ s : State, s.Inv → s.running = true →
    s.cur < 2 ^ 34 ∧ s.size < 2 ^ 34 ∧ (s.cfgMode = .decode → s.spos < 2 ^ 32 ∧ s.bitPos < 2 ^ 35) ∧
    (s.cfgMode = .encode → s.olen < 2 ^ 35) ∧
    (∀ n : BitVec 32, n.toNat * s.bpp < 2 ^ 34 ∧ s.cur + n.toNat * s.bpp < 2 ^ 35) ∧
    ∀ t, step s = .next t →
      (s.cfgMode = .encode → t.olen < 2 ^ 35) ∧ (t.w = s.w ∨ t.w < 2 ^ 34) ∧ (t.src = s.src ∨ t.src < 2 ^ 34)

/-- From every state of a running decode pass with the invariant, some number of steps, at most 2 * SLEN + 1 (= ceil(8
* SLEN / 4) + 1), reaches DONE or FAULT. (R196.) -/
def Obligations.DecodePassEnds : Prop :=
  ∀ s : State, s.Inv → s.running = true → s.cfgMode = .decode →
    ∃ k t, k ≤ 2 * s.streamLen + 1 ∧ steps k s = .next t ∧ t.ended

/-- From every state of a running encode pass with the invariant, some number of steps, at most NPRE + NPIX, reaches
DONE, and no step on the way enters FAULT, stops or refuses. (R229.) -/
def Obligations.EncodePassEnds : Prop :=
  ∀ s : State, s.Inv → s.running = true → s.cfgMode = .encode →
    (∃ k t, k ≤ s.prefixBytes + s.pixels ∧ steps k s = .next t ∧ t.phase = .done) ∧
    (∀ k, ∃ t, steps k s = .next t ∧ t.phase ≠ .fault)

/-- A copy emission writes the bits of the copy with the canonical form of its run count; a dictionary emission those
of DIC with the slot; a literal emission those of LIT; a prefix byte those of RAW. A LOOP step of an encode pass emits
the best copy, and moves CUR past its run, when that run is at least 2; otherwise it records VAL = C[CUR] and REF =
C[CUR - P], emits DIC with the slot find(REF, VAL) gives, or LIT VAL when it gives none, makes update(REF, VAL) and
advances CUR by P. A PREFIX step emits RAW C[CUR] and advances CUR by 1. When the canvas is used up the step flushes
and PHASE is DONE. Nothing else changes. For every P. (44_encoder.md sections 1 and 3 (rules R220, R222, R226, R227,
R228); 30_encoding.md section 3 (rules R94 to R98).) -/
def Obligations.EncoderEmitsEncodings : Prop :=
  (∀ (op : CopyOp) (n : Nat) (s : State), n < 2 ^ 32 →
    emitCopy op n s =
      { (encode (.copy op (canonicalRun n))).foldl writeBit s with cur := s.cur + n * s.bpp }) ∧
  (∀ (slot : Nat) (v : Byte) (s : State), slot < 8 →
    emitPixelBits (some slot) v s = (encode (.dic (BitVec.ofNat 3 slot))).foldl writeBit s) ∧
  (∀ (v : Byte) (s : State), emitPixelBits none v s = (encode (.lit v)).foldl writeBit s) ∧
  (∀ s : State, s.cfgMode = .encode → s.phase = .mainLoop → s.bpp ≤ s.cur → s.cur < s.size →
    let r := s.canvasByte (s.cur - s.bpp)
    let v := s.canvasByte s.cur
    let emitted (i : Instr) : State := (encode i).foldl writeBit { s with ctrlStart := false }
    let ended (u : State) : State := if u.size ≤ u.cur then { flush u with phase := .done } else u
    (∀ op n, best s = (some op, n) → 2 ≤ n →
      step s = .next (ended { emitted (.copy op (canonicalRun n)) with cur := s.cur + n * s.bpp })) ∧
    ((best s).2 < 2 →
      step s = .next (ended
        { emitted (match find s.dict r v with
            | some slot => .dic (BitVec.ofNat 3 slot)
            | none => .lit v) with
          val := v, ref := r, dict := update s.dict r v, cur := s.cur + s.bpp }))) ∧
  (∀ s : State, s.cfgMode = .encode → s.phase = .litPrefix → s.cur < s.prefixBytes →
    let u : State :=
      { (encode (.raw (s.canvasByte s.cur))).foldl writeBit { s with ctrlStart := false } with cur := s.cur + 1 }
    step s = .next (if u.cur < u.prefixBytes then u else if u.cur < u.size then { u with phase := .mainLoop }
      else { flush u with phase := .done }))

/-- The candidates are tried in the order of the opcode numbers 2, 12, 13, 14, 15. At a loop position CPREV and CPREV2
are always admitted, CUP when W >= L, CUPR when W > L and CFG_WIDTH >= 2, CUPL when W > L + P, each with its main
source W - P, W - 2P, W - L, W - L + P, W - L - P, which is strictly behind the cursor; a candidate that is not
admitted has run length 0. (Leaving out the fallback sources is the reading of 92 D15, log entry 18.) (44_encoder.md
section 2 (rule R223).) -/
def Obligations.AdmissionIsAsTheTable : Prop :=
  trialOrder.map (fun op => op.opcode.toNat) = [2, 12, 13, 14, 15] ∧
  (∀ s : State, s.configLegal = true → s.cur < s.size → 2 * s.bpp ≤ s.cur →
    let ok (op : CopyOp) : Bool := admitted op s.bpp s.lineBytes s.cur
    let source (op : CopyOp) : Option Nat := sourceOffset op s.bpp s.lineBytes s.cur
    (ok .cprev = true ∧ source .cprev = some (s.cur - s.bpp)) ∧
    ((ok .cup = true ↔ s.lineBytes ≤ s.cur) ∧ (ok .cup = true → source .cup = some (s.cur - s.lineBytes))) ∧
    ((ok .cupr = true ↔ s.lineBytes < s.cur ∧ 2 ≤ s.cfgWidth.toNat) ∧
      (ok .cupr = true → source .cupr = some (s.cur - s.lineBytes + s.bpp))) ∧
    ((ok .cupl = true ↔ s.lineBytes + s.bpp < s.cur) ∧
      (ok .cupl = true → source .cupl = some (s.cur - s.lineBytes - s.bpp))) ∧
    (ok .cprev2 = true ∧ source .cprev2 = some (s.cur - 2 * s.bpp)) ∧
    (∀ op src, ok op = true → source op = some src → src < s.cur)) ∧
  (∀ (op : CopyOp) (s : State), admitted op s.bpp s.lineBytes s.cur = false → candidateRun s op = 0)

/-- For an admitted candidate with source SRC, with n its run at the cursor W: n whole groups fit before the end of
the canvas (so n <= NPIX) and match byte for byte from SRC and from W, and if one more group fits it differs
somewhere. (R224.) -/
def Obligations.CandidateRunIsMaximal : Prop :=
  ∀ (op : CopyOp) (s : State) (src : Nat), s.configLegal = true → s.cur ≤ s.size →
    admitted op s.bpp s.lineBytes s.cur = true → sourceOffset op s.bpp s.lineBytes s.cur = some src →
    s.cur + candidateRun s op * s.bpp ≤ s.size ∧ candidateRun s op ≤ s.pixels ∧
    (∀ j < candidateRun s op * s.bpp, s.canvasByte (src + j) = s.canvasByte (s.cur + j)) ∧
    (s.cur + (candidateRun s op + 1) * s.bpp ≤ s.size →
      ∃ b < s.bpp, s.canvasByte (src + candidateRun s op * s.bpp + b) ≠
        s.canvasByte (s.cur + candidateRun s op * s.bpp + b))

/-- No candidate has a longer run than the selected length; when an operation is selected its run is that length and
positive, and every candidate with a smaller opcode number (in the order 2, 12, 13, 14, 15) has a strictly shorter
run; when none is selected the length is 0. (R225.) -/
def Obligations.BestIsFirstLongestCandidate : Prop :=
  ∀ s : State,
    (∀ op, candidateRun s op ≤ (best s).2) ∧
    (∀ op, (best s).1 = some op → candidateRun s op = (best s).2 ∧ 0 < (best s).2 ∧
      ∀ before, before.opcode.toNat < op.opcode.toNat → candidateRun s before < (best s).2) ∧
    ((best s).1 = none → (best s).2 = 0)

/-- If a canvas c agrees with itself from SRC and from W over k bytes, with SRC < W, then on any canvas that agrees
with c below W the forward copy of k bytes from SRC to W gives a canvas that agrees with c below W + k. (44_encoder.md
sections 2 and 4 (rules R224, R230 c); 43_decoder_ops.md section 3 (rule R193).) -/
def Obligations.MatchedRunIsReproduced : Prop :=
  ∀ (c c' : Memory) (src w k : Nat), src < w → (∀ a < w, canvasAt c' a = canvasAt c a) →
    (∀ j < k, canvasAt c (src + j) = canvasAt c (w + j)) →
    ∀ a < w + k, canvasAt (copyForward c' src w k) a = canvasAt c a

/-- For P = 1 and P = 3: a step of an encode pass with the invariant writes the bits of one well-formed operation
(and, only when it ends the pass, fewer than 8 zero bits of padding); and a decode pass with the invariant that
mirrors the encoder (same image size, cursor, phase, dictionary, and canvas below the cursor at byte 0 of every pixel-
group) and whose unread stream begins with those bits takes a step that consumes exactly them and mirrors the encoder
again. A RAW byte is reproduced, and so is every byte of a copied group whose source byte is. (44_encoder.md section 4
(rules R230, R232).) -/
def Obligations.DecoderMirrorsEncoderStep : Prop :=
  ∀ e e' : State, e.Inv → e.running = true → e.cfgMode = .encode → step e = .next e' →
    ∃ (i : Instr) (pad : Nat), WellFormed i ∧ pad < 8 ∧ (e'.phase ≠ .done → pad = 0) ∧
      e'.writtenBits = e.writtenBits ++ encode i ++ List.replicate pad false ∧
      ∀ (d : State) (rest : List Bool), d.Inv → Mirrors e d → d.remainingBits = encode i ++ rest →
        ∃ d', step d = .next d' ∧ Mirrors e' d' ∧ d'.remainingBits = rest ∧
          (∀ v, i = .raw v → d'.canvasByte e.cur = e.canvasByte e.cur) ∧
          (∀ op r src, i = .copy op r → sourceOffset op e.bpp e.lineBytes e.cur = some src →
            ∀ j < (runLen r).toNat * e.bpp,
              d.canvasByte (src + j % (e.cur - src)) = e.canvasByte (src + j % (e.cur - src)) →
              d'.canvasByte (e.cur + j) = e.canvasByte (e.cur + j))

/-- For P = 1 and every width, height and canvas: an encode pass started on the canvas ends in DONE; a decode pass
with the same configuration started on a STREAM holding its output, with any canvas contents, ends in DONE with the
encoded image in the canvas, and leaves at most 7 unread bits, all zero. (SLEN = OLEN makes OLEN fit the 32 bits of
CFG_SLEN.) (R231.) -/
def Obligations.RoundTripOneBytePerPixel : Prop :=
  ∀ e : State, e.starting → e.cfgMode = .encode → e.cfgBpp = 1 →
    ∃ k t, 1 ≤ k ∧ steps k e = .next t ∧ t.phase = .done ∧
      ∀ d : State, d.starting → d.cfgMode = .decode → d.cfgBpp = 1 → d.cfgWidth = e.cfgWidth →
        d.cfgHeight = e.cfgHeight → d.streamLen = t.olen →
        (∀ a < t.olen, Memory.read? t.out a = some (d.streamByte a)) →
        ∃ m u, 1 ≤ m ∧ steps m d = .next u ∧ u.phase = .done ∧
          (∀ a < e.size, u.canvasByte a = e.canvasByte a) ∧
          u.remainingBits.length ≤ 7 ∧ ∀ b ∈ u.remainingBits, b = false

/-- For P = 1 and P = 3 and every width, height and canvas: an encode pass started on the canvas ends in DONE; a
decode pass with the same configuration started on a STREAM holding its output, with any canvas contents, ends in DONE
with every byte of the literal prefix and byte 0 of every pixel-group of the encoded image in the canvas, and leaves
at most 7 unread bits, all zero. (What R232 promises of the copied groups is a clause of DecoderMirrorsEncoderStep.)
(44_encoder.md section 4 (rules R230, R232).) -/
def Obligations.EveryRoundTripKeepsFirstBytes : Prop :=
  ∀ e : State, e.starting → e.cfgMode = .encode →
    ∃ k t, 1 ≤ k ∧ steps k e = .next t ∧ t.phase = .done ∧
      ∀ d : State, d.starting → d.cfgMode = .decode → d.cfgBpp = e.cfgBpp → d.cfgWidth = e.cfgWidth →
        d.cfgHeight = e.cfgHeight → d.streamLen = t.olen →
        (∀ a < t.olen, Memory.read? t.out a = some (d.streamByte a)) →
        ∃ m u, 1 ≤ m ∧ steps m d = .next u ∧ u.phase = .done ∧
          (∀ a < e.prefixBytes, u.canvasByte a = e.canvasByte a) ∧
          (∀ a < e.size, a % e.bpp = 0 → u.canvasByte a = e.canvasByte a) ∧
          u.remainingBits.length ≤ 7 ∧ ∀ b ∈ u.remainingBits, b = false

/-- When an encode pass started on any canvas with SIZE >= 2P has ended, its output has at most ceil((8 * NPRE + 10 *
(NPIX - NPRE / P)) / 8) bytes; for P = 1 and NPIX >= 2 that is ceil((16 + 10 * (NPIX - 2)) / 8). (R234.) -/
def Obligations.EncoderOutputIsBounded : Prop :=
  ∀ (e t : State) (k : Nat), e.starting → e.cfgMode = .encode → 1 ≤ k → steps k e = .next t → t.phase = .done →
    (2 * e.bpp ≤ e.size → t.olen ≤ (8 * e.prefixBytes + 10 * (e.pixels - e.prefixBytes / e.bpp) + 7) / 8) ∧
    (e.cfgBpp = 1 → 2 ≤ e.pixels → t.olen ≤ (16 + 10 * (e.pixels - 2) + 7) / 8)

/-- For P = 1 and CFG_WIDTH >= 2: two decode passes started in states that differ only in the canvas contents stay in
step: after any number of steps PHASE, FAULTCODE, CUR and BP agree, and when they are DONE the canvases agree below
SIZE. (43_decoder_ops.md section 4 (rule R197); 10_state.md section 6 (rule R35).) -/
def Obligations.DecodedImageIgnoresOldCanvas : Prop :=
  ∀ (s t : State) (c : Memory) (k : Nat), s.starting → s.cfgMode = .decode → s.cfgBpp = 1 → 2 ≤ s.cfgWidth.toNat →
    1 ≤ k → steps k s = .next t →
    ∃ t', steps k { s with canvas := c } = .next t' ∧ t'.phase = t.phase ∧ t'.faultCode = t.faultCode ∧
      t'.cur = t.cur ∧ t'.bitPos = t.bitPos ∧
      (t.phase = .done → ∀ a < t.size, t'.canvasByte a = t.canvasByte a)
end

