-- ==== Sys2Proof/Laws/Bits.lean ====
section
/-! SUPPORT. The laws of bit strings: lengths, and numbers to bits and back (00_scope R9). -/

namespace Sys2Proof

@[simp] theorem length_natBits (n v : Nat) : (natBits n v).length = n := by
  induction n with
  | zero => rfl
  | succ n ih => simp [natBits, ih]

@[simp] theorem length_field (v : BitVec n) : (field v).length = n := length_natBits n _

theorem bitsToNat_foldl (bits : List Bool) (k : Nat) :
    bits.foldl (fun v b => 2 * v + b.toNat) k = k * 2 ^ bits.length + bitsToNat bits := by
  induction bits generalizing k with
  | nil => simp [bitsToNat]
  | cons b bits ih =>
    simp only [bitsToNat, List.foldl_cons, ih (2 * k + b.toNat), ih (2 * 0 + b.toNat), List.length_cons, Nat.pow_succ]
    ring

theorem bitsToNat_append (x y : List Bool) :
    bitsToNat (x ++ y) = bitsToNat x * 2 ^ y.length + bitsToNat y := by
  rw [bitsToNat, List.foldl_append, bitsToNat_foldl]; rfl

theorem bitsToNat_cons (b : Bool) (bits : List Bool) :
    bitsToNat (b :: bits) = b.toNat * 2 ^ bits.length + bitsToNat bits := by
  have := bitsToNat_append [b] bits
  simpa [bitsToNat] using this

/-- Writing a number's low bits and reading them back gives the number modulo the width. -/
theorem bitsToNat_natBits (n v : Nat) : bitsToNat (natBits n v) = v % 2 ^ n := by
  induction n with
  | zero => simp [natBits, bitsToNat, Nat.mod_one]
  | succ n ih =>
    rw [natBits, bitsToNat_cons, length_natBits, ih, Nat.toNat_testBit, Nat.mod_pow_succ, Nat.mul_comm, Nat.add_comm]

@[simp] theorem ofNat_bitsToNat_field (v : BitVec n) : BitVec.ofNat n (bitsToNat (field v)) = v := by
  simp [field, bitsToNat_natBits, Nat.mod_eq_of_lt v.isLt]

/-- What reading an `n`-bit field from a list of bits can do. -/
theorem listSource_read (n : Nat) (h : ReadWidth n) (bits : List Bool) :
    (bits.length < n ∧ listSource.read n h bits = .error bits) ∨
    (n ≤ bits.length ∧
      listSource.read n h bits = .ok (BitVec.ofNat n (bitsToNat (bits.take n)), bits.drop n)) := by
  simp only [listSource]
  split
  · exact .inl ⟨by assumption, rfl⟩
  · exact .inr ⟨by omega, rfl⟩

/-- A field at the head of a list of bits is read back, and the bits after it are left. -/
@[simp] theorem listSource_read_field (v : BitVec n) (h : ReadWidth n) (rest : List Bool) :
    listSource.read n h (field v ++ rest) = .ok (v, rest) := by
  simp [listSource, List.take_left', List.drop_left']

@[simp] theorem listSource_setOpc (c : BitVec 4) (bits : List Bool) : listSource.setOpc c bits = bits := rfl

@[simp] theorem listSource_setFlag (f : BitVec 1) (bits : List Bool) : listSource.setFlag f bits = bits := rfl

@[simp] theorem Reading.andThen_ok {σ α β : Type} (a : α) (s : σ) (k : α → σ → Reading σ β) :
    Reading.andThen (.ok (a, s)) k = k a s := rfl

@[simp] theorem Reading.andThen_error {σ α β : Type} (s : σ) (k : α → σ → Reading σ β) :
    Reading.andThen (.error s : Reading σ α) k = .error s := rfl

/-- What reading on can do: the first read and the rest both succeed, or one of the two runs out of bits. -/
theorem Reading.andThen_eq_ok {σ α β : Type} {r : Reading σ α} {k : α → σ → Reading σ β} {x : β × σ}
    (h : r.andThen k = .ok x) : ∃ a s, r = .ok (a, s) ∧ k a s = .ok x := by
  match r, h with
  | .ok (a, s), h => exact ⟨a, s, rfl, h⟩

theorem Reading.andThen_eq_error {σ α β : Type} {r : Reading σ α} {k : α → σ → Reading σ β} {s' : σ}
    (h : r.andThen k = .error s') : r = .error s' ∨ ∃ a s, r = .ok (a, s) ∧ k a s = .error s' := by
  match r, h with
  | .ok (a, s), h => exact .inr ⟨a, s, rfl, h⟩
  | .error s, h => exact .inl (by cases h; rfl)

end Sys2Proof
end

