-- ==== Sys2Proof/Laws/Memory.lean ====
section
/-! SUPPORT. The laws of byte memories: a read after a write, the canonical form, and what a sequence of writes and a forward
copy leave outside the bytes they write. -/

namespace Sys2Proof.Machine

@[simp] theorem Memory.read?_nil (a : Nat) : Memory.read? [] a = none := rfl

theorem Memory.read?_write (m : Memory) (a : Nat) (v : Byte) (b : Nat) :
    Memory.read? (Memory.write m a v) b = if b = a then some v else Memory.read? m b := by
  induction m with
  | nil => rfl
  | cons c m ih =>
    obtain ⟨k, x⟩ := c
    simp only [Memory.write]
    split
    · rfl
    · split
      · subst k; simp only [Memory.read?]; split <;> rfl
      · simp only [Memory.read?, ih]; split
        · rw [if_neg (by omega)]
        · rfl

@[simp] theorem Memory.read?_write_same (m : Memory) (a : Nat) (v : Byte) :
    Memory.read? (Memory.write m a v) a = some v := by simp [Memory.read?_write]

theorem Memory.read?_write_other (m : Memory) {a b : Nat} (v : Byte) (h : b ≠ a) :
    Memory.read? (Memory.write m a v) b = Memory.read? m b := by simp [Memory.read?_write, h]

/-- Writing one byte lists no address but the one written and those listed before. -/
theorem Memory.mem_write {m : Memory} {a : Nat} {v : Byte} {c : Host.Cell} (h : c ∈ Memory.write m a v) :
    c = (a, v) ∨ c ∈ m := by
  induction m with
  | nil => simpa [Memory.write] using h
  | cons d m ih =>
    obtain ⟨k, x⟩ := d
    simp only [Memory.write] at h
    split at h
    · simpa using h
    · split at h
      · rcases List.mem_cons.1 h with h | h
        · exact .inl h
        · exact .inr (List.mem_cons_of_mem _ h)
      · rcases List.mem_cons.1 h with h | h
        · exact .inr (h ▸ List.mem_cons_self)
        · exact (ih h).imp_right (List.mem_cons_of_mem _)

/-- A write keeps the canonical form. -/
theorem Memory.write_wf {m : Memory} (h : Memory.wf m) (a : Nat) (v : Byte) : Memory.wf (Memory.write m a v) := by
  induction m with
  | nil => simp [Memory.write, Memory.wf]
  | cons c m ih =>
    obtain ⟨k, x⟩ := c
    obtain ⟨hk, hm⟩ := List.pairwise_cons.1 h
    simp only [Memory.write]
    split
    · refine List.pairwise_cons.2 ⟨fun c hc => ?_, h⟩
      rcases List.mem_cons.1 hc with rfl | hc
      · assumption
      · have := hk c hc; omega
    · split
      · subst k; exact List.pairwise_cons.2 ⟨hk, hm⟩
      · refine List.pairwise_cons.2 ⟨fun c hc => ?_, ih hm⟩
        rcases Memory.mem_write hc with rfl | hc
        · change k < a; omega
        · exact hk c hc

theorem Memory.writeBytes_wf {m : Memory} (h : Memory.wf m) (a : Nat) (vs : List Byte) :
    Memory.wf (Memory.writeBytes m a vs) := by
  induction vs generalizing m a with
  | nil => exact h
  | cons v vs ih => exact ih (Memory.write_wf h a v) (a + 1)

theorem Memory.read?_writeBytes (m : Memory) (a : Nat) (vs : List Byte) (b : Nat) :
    Memory.read? (Memory.writeBytes m a vs) b =
      if a ≤ b ∧ b < a + vs.length then vs[b - a]? else Memory.read? m b := by
  induction vs generalizing m a with
  | nil => simp only [Memory.writeBytes, List.length_nil]; rw [if_neg (by omega)]
  | cons v vs ih =>
    simp only [Memory.writeBytes, ih, Memory.read?_write, List.length_cons]
    by_cases h : b = a
    · subst h; simp
    · by_cases h' : a + 1 ≤ b ∧ b < a + 1 + vs.length
      · rw [if_pos h', if_pos (by omega), show b - a = b - (a + 1) + 1 by omega, List.getElem?_cons_succ]
      · rw [if_neg h', if_neg h, if_neg (by omega)]

/-! ## The canvas -/

theorem canvasAt_write (c : Memory) (a : Nat) (v : Byte) (b : Nat) :
    canvasAt (Memory.write c a v) b = if b = a then v else canvasAt c b := by
  unfold canvasAt; rw [Memory.read?_write]; split <;> rfl

@[simp] theorem canvasAt_write_same (c : Memory) (a : Nat) (v : Byte) :
    canvasAt (Memory.write c a v) a = v := by simp [canvasAt_write]

theorem canvasAt_write_other (c : Memory) {a b : Nat} (v : Byte) (h : b ≠ a) :
    canvasAt (Memory.write c a v) b = canvasAt c b := by simp [canvasAt_write, h]

/-- A forward copy keeps the canonical form. -/
theorem copyForward_wf {c : Memory} (h : Memory.wf c) (src dst count : Nat) :
    Memory.wf (copyForward c src dst count) := by
  induction count generalizing c src dst with
  | zero => exact h
  | succ n ih => exact ih (Memory.write_wf h _ _) _ _

/-- A forward copy leaves every byte outside its destination as it was. -/
theorem copyForward_outside (c : Memory) (src dst count a : Nat) (h : a < dst ∨ dst + count ≤ a) :
    canvasAt (copyForward c src dst count) a = canvasAt c a := by
  induction count generalizing c src dst with
  | zero => rfl
  | succ n ih => rw [copyForward, ih _ _ _ (by omega), canvasAt_write_other _ _ (by omega)]

/-- The reset memories have the canonical form. -/
theorem reset_memories_wf :
    Memory.wf State.reset.stream ∧ Memory.wf State.reset.canvas ∧ Memory.wf State.reset.out := by
  decide

end Sys2Proof.Machine
end

