-- ==== Sys2Proof/Laws/State.lean ====
section
/-! SUPPORT. What the updates of the state leave in each field: one lemma per field per update, so that no later proof unfolds
an update. -/

namespace Sys2Proof.Machine

/-! ## raise -/

@[simp] theorem raise_cfgWidth (c : FaultCode) (s : State) : (raise c s).cfgWidth = s.cfgWidth := rfl

@[simp] theorem raise_cfgHeight (c : FaultCode) (s : State) : (raise c s).cfgHeight = s.cfgHeight := rfl

@[simp] theorem raise_cfgBpp (c : FaultCode) (s : State) : (raise c s).cfgBpp = s.cfgBpp := rfl

@[simp] theorem raise_cfgMode (c : FaultCode) (s : State) : (raise c s).cfgMode = s.cfgMode := rfl

@[simp] theorem raise_cfgSlen (c : FaultCode) (s : State) : (raise c s).cfgSlen = s.cfgSlen := rfl

@[simp] theorem raise_ctrlStart (c : FaultCode) (s : State) : (raise c s).ctrlStart = s.ctrlStart := rfl

@[simp] theorem raise_phase (c : FaultCode) (s : State) : (raise c s).phase = .fault := rfl

@[simp] theorem raise_faultCode (c : FaultCode) (s : State) : (raise c s).faultCode = c := rfl

@[simp] theorem raise_stream (c : FaultCode) (s : State) : (raise c s).stream = s.stream := rfl

@[simp] theorem raise_canvas (c : FaultCode) (s : State) : (raise c s).canvas = s.canvas := rfl

@[simp] theorem raise_out (c : FaultCode) (s : State) : (raise c s).out = s.out := rfl

@[simp] theorem raise_cur (c : FaultCode) (s : State) : (raise c s).cur = s.cur := rfl

@[simp] theorem raise_spos (c : FaultCode) (s : State) : (raise c s).spos = s.spos := rfl

@[simp] theorem raise_bitCnt (c : FaultCode) (s : State) : (raise c s).bitCnt = s.bitCnt := rfl

@[simp] theorem raise_bitBuf (c : FaultCode) (s : State) : (raise c s).bitBuf = s.bitBuf := rfl

@[simp] theorem raise_wAcc (c : FaultCode) (s : State) : (raise c s).wAcc = s.wAcc := rfl

@[simp] theorem raise_wCnt (c : FaultCode) (s : State) : (raise c s).wCnt = s.wCnt := rfl

@[simp] theorem raise_olen (c : FaultCode) (s : State) : (raise c s).olen = s.olen := rfl

@[simp] theorem raise_dict (c : FaultCode) (s : State) : (raise c s).dict = s.dict := rfl

@[simp] theorem raise_opc (c : FaultCode) (s : State) : (raise c s).opc = s.opc := rfl

@[simp] theorem raise_flag (c : FaultCode) (s : State) : (raise c s).flag = s.flag := rfl

@[simp] theorem raise_slot (c : FaultCode) (s : State) : (raise c s).slot = s.slot := rfl

@[simp] theorem raise_val (c : FaultCode) (s : State) : (raise c s).val = s.val := rfl

@[simp] theorem raise_ref (c : FaultCode) (s : State) : (raise c s).ref = s.ref := rfl

@[simp] theorem raise_len (c : FaultCode) (s : State) : (raise c s).len = s.len := rfl

@[simp] theorem raise_w (c : FaultCode) (s : State) : (raise c s).w = s.w := rfl

@[simp] theorem raise_src (c : FaultCode) (s : State) : (raise c s).src = s.src := rfl

/-! ## dropStart -/

@[simp] theorem dropStart_cfgWidth (s : State) : (dropStart s).cfgWidth = s.cfgWidth := rfl

@[simp] theorem dropStart_cfgHeight (s : State) : (dropStart s).cfgHeight = s.cfgHeight := rfl

@[simp] theorem dropStart_cfgBpp (s : State) : (dropStart s).cfgBpp = s.cfgBpp := rfl

@[simp] theorem dropStart_cfgMode (s : State) : (dropStart s).cfgMode = s.cfgMode := rfl

@[simp] theorem dropStart_cfgSlen (s : State) : (dropStart s).cfgSlen = s.cfgSlen := rfl

@[simp] theorem dropStart_ctrlStart (s : State) : (dropStart s).ctrlStart = false := rfl

@[simp] theorem dropStart_phase (s : State) : (dropStart s).phase = s.phase := rfl

@[simp] theorem dropStart_faultCode (s : State) : (dropStart s).faultCode = s.faultCode := rfl

@[simp] theorem dropStart_stream (s : State) : (dropStart s).stream = s.stream := rfl

@[simp] theorem dropStart_canvas (s : State) : (dropStart s).canvas = s.canvas := rfl

@[simp] theorem dropStart_out (s : State) : (dropStart s).out = s.out := rfl

@[simp] theorem dropStart_cur (s : State) : (dropStart s).cur = s.cur := rfl

@[simp] theorem dropStart_spos (s : State) : (dropStart s).spos = s.spos := rfl

@[simp] theorem dropStart_bitCnt (s : State) : (dropStart s).bitCnt = s.bitCnt := rfl

@[simp] theorem dropStart_bitBuf (s : State) : (dropStart s).bitBuf = s.bitBuf := rfl

@[simp] theorem dropStart_wAcc (s : State) : (dropStart s).wAcc = s.wAcc := rfl

@[simp] theorem dropStart_wCnt (s : State) : (dropStart s).wCnt = s.wCnt := rfl

@[simp] theorem dropStart_olen (s : State) : (dropStart s).olen = s.olen := rfl

@[simp] theorem dropStart_dict (s : State) : (dropStart s).dict = s.dict := rfl

@[simp] theorem dropStart_opc (s : State) : (dropStart s).opc = s.opc := rfl

@[simp] theorem dropStart_flag (s : State) : (dropStart s).flag = s.flag := rfl

@[simp] theorem dropStart_slot (s : State) : (dropStart s).slot = s.slot := rfl

@[simp] theorem dropStart_val (s : State) : (dropStart s).val = s.val := rfl

@[simp] theorem dropStart_ref (s : State) : (dropStart s).ref = s.ref := rfl

@[simp] theorem dropStart_len (s : State) : (dropStart s).len = s.len := rfl

@[simp] theorem dropStart_w (s : State) : (dropStart s).w = s.w := rfl

@[simp] theorem dropStart_src (s : State) : (dropStart s).src = s.src := rfl

/-! ## appendOut -/

@[simp] theorem appendOut_cfgWidth (v : Byte) (s : State) : (appendOut v s).cfgWidth = s.cfgWidth := rfl

@[simp] theorem appendOut_cfgHeight (v : Byte) (s : State) : (appendOut v s).cfgHeight = s.cfgHeight := rfl

@[simp] theorem appendOut_cfgBpp (v : Byte) (s : State) : (appendOut v s).cfgBpp = s.cfgBpp := rfl

@[simp] theorem appendOut_cfgMode (v : Byte) (s : State) : (appendOut v s).cfgMode = s.cfgMode := rfl

@[simp] theorem appendOut_cfgSlen (v : Byte) (s : State) : (appendOut v s).cfgSlen = s.cfgSlen := rfl

@[simp] theorem appendOut_ctrlStart (v : Byte) (s : State) : (appendOut v s).ctrlStart = s.ctrlStart := rfl

@[simp] theorem appendOut_phase (v : Byte) (s : State) : (appendOut v s).phase = s.phase := rfl

@[simp] theorem appendOut_faultCode (v : Byte) (s : State) : (appendOut v s).faultCode = s.faultCode := rfl

@[simp] theorem appendOut_stream (v : Byte) (s : State) : (appendOut v s).stream = s.stream := rfl

@[simp] theorem appendOut_canvas (v : Byte) (s : State) : (appendOut v s).canvas = s.canvas := rfl

@[simp] theorem appendOut_out (v : Byte) (s : State) : (appendOut v s).out = Memory.write s.out s.olen v := rfl

@[simp] theorem appendOut_cur (v : Byte) (s : State) : (appendOut v s).cur = s.cur := rfl

@[simp] theorem appendOut_spos (v : Byte) (s : State) : (appendOut v s).spos = s.spos := rfl

@[simp] theorem appendOut_bitCnt (v : Byte) (s : State) : (appendOut v s).bitCnt = s.bitCnt := rfl

@[simp] theorem appendOut_bitBuf (v : Byte) (s : State) : (appendOut v s).bitBuf = s.bitBuf := rfl

@[simp] theorem appendOut_wAcc (v : Byte) (s : State) : (appendOut v s).wAcc = s.wAcc := rfl

@[simp] theorem appendOut_wCnt (v : Byte) (s : State) : (appendOut v s).wCnt = s.wCnt := rfl

@[simp] theorem appendOut_olen (v : Byte) (s : State) : (appendOut v s).olen = s.olen + 1 := rfl

@[simp] theorem appendOut_dict (v : Byte) (s : State) : (appendOut v s).dict = s.dict := rfl

@[simp] theorem appendOut_opc (v : Byte) (s : State) : (appendOut v s).opc = s.opc := rfl

@[simp] theorem appendOut_flag (v : Byte) (s : State) : (appendOut v s).flag = s.flag := rfl

@[simp] theorem appendOut_slot (v : Byte) (s : State) : (appendOut v s).slot = s.slot := rfl

@[simp] theorem appendOut_val (v : Byte) (s : State) : (appendOut v s).val = s.val := rfl

@[simp] theorem appendOut_ref (v : Byte) (s : State) : (appendOut v s).ref = s.ref := rfl

@[simp] theorem appendOut_len (v : Byte) (s : State) : (appendOut v s).len = s.len := rfl

@[simp] theorem appendOut_w (v : Byte) (s : State) : (appendOut v s).w = s.w := rfl

@[simp] theorem appendOut_src (v : Byte) (s : State) : (appendOut v s).src = s.src := rfl

/-! ## startDecode -/

@[simp] theorem startDecode_cfgWidth (s : State) : (startDecode s).cfgWidth = s.cfgWidth := rfl

@[simp] theorem startDecode_cfgHeight (s : State) : (startDecode s).cfgHeight = s.cfgHeight := rfl

@[simp] theorem startDecode_cfgBpp (s : State) : (startDecode s).cfgBpp = s.cfgBpp := rfl

@[simp] theorem startDecode_cfgMode (s : State) : (startDecode s).cfgMode = s.cfgMode := rfl

@[simp] theorem startDecode_cfgSlen (s : State) : (startDecode s).cfgSlen = s.cfgSlen := rfl

@[simp] theorem startDecode_ctrlStart (s : State) : (startDecode s).ctrlStart = s.ctrlStart := rfl

@[simp] theorem startDecode_phase (s : State) : (startDecode s).phase = if s.size = 0 then .done else .litPrefix := rfl

@[simp] theorem startDecode_faultCode (s : State) : (startDecode s).faultCode = .none := rfl

@[simp] theorem startDecode_stream (s : State) : (startDecode s).stream = s.stream := rfl

@[simp] theorem startDecode_canvas (s : State) : (startDecode s).canvas = s.canvas := rfl

@[simp] theorem startDecode_out (s : State) : (startDecode s).out = s.out := rfl

@[simp] theorem startDecode_cur (s : State) : (startDecode s).cur = 0 := rfl

@[simp] theorem startDecode_spos (s : State) : (startDecode s).spos = 0 := rfl

@[simp] theorem startDecode_bitCnt (s : State) : (startDecode s).bitCnt = 0 := rfl

@[simp] theorem startDecode_bitBuf (s : State) : (startDecode s).bitBuf = 0 := rfl

@[simp] theorem startDecode_wAcc (s : State) : (startDecode s).wAcc = s.wAcc := rfl

@[simp] theorem startDecode_wCnt (s : State) : (startDecode s).wCnt = s.wCnt := rfl

@[simp] theorem startDecode_olen (s : State) : (startDecode s).olen = s.olen := rfl

@[simp] theorem startDecode_dict (s : State) : (startDecode s).dict = seedDict := rfl

@[simp] theorem startDecode_opc (s : State) : (startDecode s).opc = s.opc := rfl

@[simp] theorem startDecode_flag (s : State) : (startDecode s).flag = s.flag := rfl

@[simp] theorem startDecode_slot (s : State) : (startDecode s).slot = s.slot := rfl

@[simp] theorem startDecode_val (s : State) : (startDecode s).val = s.val := rfl

@[simp] theorem startDecode_ref (s : State) : (startDecode s).ref = s.ref := rfl

@[simp] theorem startDecode_len (s : State) : (startDecode s).len = s.len := rfl

@[simp] theorem startDecode_w (s : State) : (startDecode s).w = s.w := rfl

@[simp] theorem startDecode_src (s : State) : (startDecode s).src = s.src := rfl

/-! ## startEncode -/

@[simp] theorem startEncode_cfgWidth (s : State) : (startEncode s).cfgWidth = s.cfgWidth := rfl

@[simp] theorem startEncode_cfgHeight (s : State) : (startEncode s).cfgHeight = s.cfgHeight := rfl

@[simp] theorem startEncode_cfgBpp (s : State) : (startEncode s).cfgBpp = s.cfgBpp := rfl

@[simp] theorem startEncode_cfgMode (s : State) : (startEncode s).cfgMode = s.cfgMode := rfl

@[simp] theorem startEncode_cfgSlen (s : State) : (startEncode s).cfgSlen = s.cfgSlen := rfl

@[simp] theorem startEncode_ctrlStart (s : State) : (startEncode s).ctrlStart = s.ctrlStart := rfl

@[simp] theorem startEncode_phase (s : State) : (startEncode s).phase = if s.size = 0 then .done else .litPrefix := rfl

@[simp] theorem startEncode_faultCode (s : State) : (startEncode s).faultCode = .none := rfl

@[simp] theorem startEncode_stream (s : State) : (startEncode s).stream = s.stream := rfl

@[simp] theorem startEncode_canvas (s : State) : (startEncode s).canvas = s.canvas := rfl

@[simp] theorem startEncode_out (s : State) : (startEncode s).out = [] := rfl

@[simp] theorem startEncode_cur (s : State) : (startEncode s).cur = 0 := rfl

@[simp] theorem startEncode_spos (s : State) : (startEncode s).spos = s.spos := rfl

@[simp] theorem startEncode_bitCnt (s : State) : (startEncode s).bitCnt = s.bitCnt := rfl

@[simp] theorem startEncode_bitBuf (s : State) : (startEncode s).bitBuf = s.bitBuf := rfl

@[simp] theorem startEncode_wAcc (s : State) : (startEncode s).wAcc = 0 := rfl

@[simp] theorem startEncode_wCnt (s : State) : (startEncode s).wCnt = 0 := rfl

@[simp] theorem startEncode_olen (s : State) : (startEncode s).olen = 0 := rfl

@[simp] theorem startEncode_dict (s : State) : (startEncode s).dict = seedDict := rfl

@[simp] theorem startEncode_opc (s : State) : (startEncode s).opc = s.opc := rfl

@[simp] theorem startEncode_flag (s : State) : (startEncode s).flag = s.flag := rfl

@[simp] theorem startEncode_slot (s : State) : (startEncode s).slot = s.slot := rfl

@[simp] theorem startEncode_val (s : State) : (startEncode s).val = s.val := rfl

@[simp] theorem startEncode_ref (s : State) : (startEncode s).ref = s.ref := rfl

@[simp] theorem startEncode_len (s : State) : (startEncode s).len = s.len := rfl

@[simp] theorem startEncode_w (s : State) : (startEncode s).w = s.w := rfl

@[simp] theorem startEncode_src (s : State) : (startEncode s).src = s.src := rfl

/-! ## writeBit -/

@[simp] theorem writeBit_cfgWidth (s : State) (b : Bool) :
    (writeBit s b).cfgWidth = s.cfgWidth := by unfold writeBit; dsimp only; split <;> rfl

@[simp] theorem writeBit_cfgHeight (s : State) (b : Bool) :
    (writeBit s b).cfgHeight = s.cfgHeight := by unfold writeBit; dsimp only; split <;> rfl

@[simp] theorem writeBit_cfgBpp (s : State) (b : Bool) :
    (writeBit s b).cfgBpp = s.cfgBpp := by unfold writeBit; dsimp only; split <;> rfl

@[simp] theorem writeBit_cfgMode (s : State) (b : Bool) :
    (writeBit s b).cfgMode = s.cfgMode := by unfold writeBit; dsimp only; split <;> rfl

@[simp] theorem writeBit_cfgSlen (s : State) (b : Bool) :
    (writeBit s b).cfgSlen = s.cfgSlen := by unfold writeBit; dsimp only; split <;> rfl

@[simp] theorem writeBit_ctrlStart (s : State) (b : Bool) :
    (writeBit s b).ctrlStart = s.ctrlStart := by unfold writeBit; dsimp only; split <;> rfl

@[simp] theorem writeBit_phase (s : State) (b : Bool) :
    (writeBit s b).phase = s.phase := by unfold writeBit; dsimp only; split <;> rfl

@[simp] theorem writeBit_faultCode (s : State) (b : Bool) :
    (writeBit s b).faultCode = s.faultCode := by unfold writeBit; dsimp only; split <;> rfl

@[simp] theorem writeBit_stream (s : State) (b : Bool) :
    (writeBit s b).stream = s.stream := by unfold writeBit; dsimp only; split <;> rfl

@[simp] theorem writeBit_canvas (s : State) (b : Bool) :
    (writeBit s b).canvas = s.canvas := by unfold writeBit; dsimp only; split <;> rfl

@[simp] theorem writeBit_cur (s : State) (b : Bool) : (writeBit s b).cur = s.cur := by unfold writeBit; dsimp only; split <;> rfl

@[simp] theorem writeBit_spos (s : State) (b : Bool) :
    (writeBit s b).spos = s.spos := by unfold writeBit; dsimp only; split <;> rfl

@[simp] theorem writeBit_bitCnt (s : State) (b : Bool) :
    (writeBit s b).bitCnt = s.bitCnt := by unfold writeBit; dsimp only; split <;> rfl

@[simp] theorem writeBit_bitBuf (s : State) (b : Bool) :
    (writeBit s b).bitBuf = s.bitBuf := by unfold writeBit; dsimp only; split <;> rfl

@[simp] theorem writeBit_dict (s : State) (b : Bool) :
    (writeBit s b).dict = s.dict := by unfold writeBit; dsimp only; split <;> rfl

@[simp] theorem writeBit_opc (s : State) (b : Bool) : (writeBit s b).opc = s.opc := by unfold writeBit; dsimp only; split <;> rfl

@[simp] theorem writeBit_flag (s : State) (b : Bool) :
    (writeBit s b).flag = s.flag := by unfold writeBit; dsimp only; split <;> rfl

@[simp] theorem writeBit_slot (s : State) (b : Bool) :
    (writeBit s b).slot = s.slot := by unfold writeBit; dsimp only; split <;> rfl

@[simp] theorem writeBit_val (s : State) (b : Bool) : (writeBit s b).val = s.val := by unfold writeBit; dsimp only; split <;> rfl

@[simp] theorem writeBit_ref (s : State) (b : Bool) : (writeBit s b).ref = s.ref := by unfold writeBit; dsimp only; split <;> rfl

@[simp] theorem writeBit_len (s : State) (b : Bool) : (writeBit s b).len = s.len := by unfold writeBit; dsimp only; split <;> rfl

@[simp] theorem writeBit_w (s : State) (b : Bool) : (writeBit s b).w = s.w := by unfold writeBit; dsimp only; split <;> rfl

@[simp] theorem writeBit_src (s : State) (b : Bool) : (writeBit s b).src = s.src := by unfold writeBit; dsimp only; split <;> rfl

/-! ## flush -/

@[simp] theorem flush_cfgWidth (s : State) : (flush s).cfgWidth = s.cfgWidth := by unfold flush; split <;> rfl

@[simp] theorem flush_cfgHeight (s : State) : (flush s).cfgHeight = s.cfgHeight := by unfold flush; split <;> rfl

@[simp] theorem flush_cfgBpp (s : State) : (flush s).cfgBpp = s.cfgBpp := by unfold flush; split <;> rfl

@[simp] theorem flush_cfgMode (s : State) : (flush s).cfgMode = s.cfgMode := by unfold flush; split <;> rfl

@[simp] theorem flush_cfgSlen (s : State) : (flush s).cfgSlen = s.cfgSlen := by unfold flush; split <;> rfl

@[simp] theorem flush_ctrlStart (s : State) : (flush s).ctrlStart = s.ctrlStart := by unfold flush; split <;> rfl

@[simp] theorem flush_phase (s : State) : (flush s).phase = s.phase := by unfold flush; split <;> rfl

@[simp] theorem flush_faultCode (s : State) : (flush s).faultCode = s.faultCode := by unfold flush; split <;> rfl

@[simp] theorem flush_stream (s : State) : (flush s).stream = s.stream := by unfold flush; split <;> rfl

@[simp] theorem flush_canvas (s : State) : (flush s).canvas = s.canvas := by unfold flush; split <;> rfl

@[simp] theorem flush_cur (s : State) : (flush s).cur = s.cur := by unfold flush; split <;> rfl

@[simp] theorem flush_spos (s : State) : (flush s).spos = s.spos := by unfold flush; split <;> rfl

@[simp] theorem flush_bitCnt (s : State) : (flush s).bitCnt = s.bitCnt := by unfold flush; split <;> rfl

@[simp] theorem flush_bitBuf (s : State) : (flush s).bitBuf = s.bitBuf := by unfold flush; split <;> rfl

@[simp] theorem flush_dict (s : State) : (flush s).dict = s.dict := by unfold flush; split <;> rfl

@[simp] theorem flush_opc (s : State) : (flush s).opc = s.opc := by unfold flush; split <;> rfl

@[simp] theorem flush_flag (s : State) : (flush s).flag = s.flag := by unfold flush; split <;> rfl

@[simp] theorem flush_slot (s : State) : (flush s).slot = s.slot := by unfold flush; split <;> rfl

@[simp] theorem flush_val (s : State) : (flush s).val = s.val := by unfold flush; split <;> rfl

@[simp] theorem flush_ref (s : State) : (flush s).ref = s.ref := by unfold flush; split <;> rfl

@[simp] theorem flush_len (s : State) : (flush s).len = s.len := by unfold flush; split <;> rfl

@[simp] theorem flush_w (s : State) : (flush s).w = s.w := by unfold flush; split <;> rfl

@[simp] theorem flush_src (s : State) : (flush s).src = s.src := by unfold flush; split <;> rfl

/-! ## finish -/

@[simp] theorem finish_cfgWidth (s : State) : (finish s).cfgWidth = s.cfgWidth := by unfold finish; split <;> simp

@[simp] theorem finish_cfgHeight (s : State) : (finish s).cfgHeight = s.cfgHeight := by unfold finish; split <;> simp

@[simp] theorem finish_cfgBpp (s : State) : (finish s).cfgBpp = s.cfgBpp := by unfold finish; split <;> simp

@[simp] theorem finish_cfgMode (s : State) : (finish s).cfgMode = s.cfgMode := by unfold finish; split <;> simp

@[simp] theorem finish_cfgSlen (s : State) : (finish s).cfgSlen = s.cfgSlen := by unfold finish; split <;> simp

@[simp] theorem finish_ctrlStart (s : State) : (finish s).ctrlStart = s.ctrlStart := by unfold finish; split <;> simp

@[simp] theorem finish_phase (s : State) : (finish s).phase = .done := by unfold finish; split <;> simp

@[simp] theorem finish_faultCode (s : State) : (finish s).faultCode = s.faultCode := by unfold finish; split <;> simp

@[simp] theorem finish_stream (s : State) : (finish s).stream = s.stream := by unfold finish; split <;> simp

@[simp] theorem finish_canvas (s : State) : (finish s).canvas = s.canvas := by unfold finish; split <;> simp

@[simp] theorem finish_cur (s : State) : (finish s).cur = s.cur := by unfold finish; split <;> simp

@[simp] theorem finish_spos (s : State) : (finish s).spos = s.spos := by unfold finish; split <;> simp

@[simp] theorem finish_bitCnt (s : State) : (finish s).bitCnt = s.bitCnt := by unfold finish; split <;> simp

@[simp] theorem finish_bitBuf (s : State) : (finish s).bitBuf = s.bitBuf := by unfold finish; split <;> simp

@[simp] theorem finish_dict (s : State) : (finish s).dict = s.dict := by unfold finish; split <;> simp

@[simp] theorem finish_opc (s : State) : (finish s).opc = s.opc := by unfold finish; split <;> simp

@[simp] theorem finish_flag (s : State) : (finish s).flag = s.flag := by unfold finish; split <;> simp

@[simp] theorem finish_slot (s : State) : (finish s).slot = s.slot := by unfold finish; split <;> simp

@[simp] theorem finish_val (s : State) : (finish s).val = s.val := by unfold finish; split <;> simp

@[simp] theorem finish_ref (s : State) : (finish s).ref = s.ref := by unfold finish; split <;> simp

@[simp] theorem finish_len (s : State) : (finish s).len = s.len := by unfold finish; split <;> simp

@[simp] theorem finish_w (s : State) : (finish s).w = s.w := by unfold finish; split <;> simp

@[simp] theorem finish_src (s : State) : (finish s).src = s.src := by unfold finish; split <;> simp

/-! ## loopTest -/

@[simp] theorem loopTest_cfgWidth (s : State) :
    (loopTest s).cfgWidth = s.cfgWidth := by unfold loopTest; dsimp only; split <;> split <;> simp

@[simp] theorem loopTest_cfgHeight (s : State) :
    (loopTest s).cfgHeight = s.cfgHeight := by unfold loopTest; dsimp only; split <;> split <;> simp

@[simp] theorem loopTest_cfgBpp (s : State) :
    (loopTest s).cfgBpp = s.cfgBpp := by unfold loopTest; dsimp only; split <;> split <;> simp

@[simp] theorem loopTest_cfgMode (s : State) :
    (loopTest s).cfgMode = s.cfgMode := by unfold loopTest; dsimp only; split <;> split <;> simp

@[simp] theorem loopTest_cfgSlen (s : State) :
    (loopTest s).cfgSlen = s.cfgSlen := by unfold loopTest; dsimp only; split <;> split <;> simp

@[simp] theorem loopTest_ctrlStart (s : State) :
    (loopTest s).ctrlStart = s.ctrlStart := by unfold loopTest; dsimp only; split <;> split <;> simp

@[simp] theorem loopTest_faultCode (s : State) :
    (loopTest s).faultCode = s.faultCode := by unfold loopTest; dsimp only; split <;> split <;> simp

@[simp] theorem loopTest_stream (s : State) :
    (loopTest s).stream = s.stream := by unfold loopTest; dsimp only; split <;> split <;> simp

@[simp] theorem loopTest_canvas (s : State) :
    (loopTest s).canvas = s.canvas := by unfold loopTest; dsimp only; split <;> split <;> simp

@[simp] theorem loopTest_cur (s : State) :
    (loopTest s).cur = s.cur := by unfold loopTest; dsimp only; split <;> split <;> simp

@[simp] theorem loopTest_spos (s : State) :
    (loopTest s).spos = s.spos := by unfold loopTest; dsimp only; split <;> split <;> simp

@[simp] theorem loopTest_bitCnt (s : State) :
    (loopTest s).bitCnt = s.bitCnt := by unfold loopTest; dsimp only; split <;> split <;> simp

@[simp] theorem loopTest_bitBuf (s : State) :
    (loopTest s).bitBuf = s.bitBuf := by unfold loopTest; dsimp only; split <;> split <;> simp

@[simp] theorem loopTest_dict (s : State) :
    (loopTest s).dict = s.dict := by unfold loopTest; dsimp only; split <;> split <;> simp

@[simp] theorem loopTest_opc (s : State) :
    (loopTest s).opc = s.opc := by unfold loopTest; dsimp only; split <;> split <;> simp

@[simp] theorem loopTest_flag (s : State) :
    (loopTest s).flag = s.flag := by unfold loopTest; dsimp only; split <;> split <;> simp

@[simp] theorem loopTest_slot (s : State) :
    (loopTest s).slot = s.slot := by unfold loopTest; dsimp only; split <;> split <;> simp

@[simp] theorem loopTest_val (s : State) :
    (loopTest s).val = s.val := by unfold loopTest; dsimp only; split <;> split <;> simp

@[simp] theorem loopTest_ref (s : State) :
    (loopTest s).ref = s.ref := by unfold loopTest; dsimp only; split <;> split <;> simp

@[simp] theorem loopTest_len (s : State) :
    (loopTest s).len = s.len := by unfold loopTest; dsimp only; split <;> split <;> simp

@[simp] theorem loopTest_w (s : State) :
    (loopTest s).w = s.w := by unfold loopTest; dsimp only; split <;> split <;> simp

@[simp] theorem loopTest_src (s : State) :
    (loopTest s).src = s.src := by unfold loopTest; dsimp only; split <;> split <;> simp

end Sys2Proof.Machine
end

