-- ==== Sys2Proof/Laws/Ops.lean ====
section
/-! SUPPORT. What each shared operation can do, said once: the lemmas later proofs cite instead of unfolding an operation. -/

namespace Sys2Proof.Machine

/-! ## The constants of a pass depend on the configuration alone -/

theorem State.bpp_congr {s t : State} (h : t.cfgBpp = s.cfgBpp) : t.bpp = s.bpp := by simp [State.bpp, h]

theorem State.size_congr {s t : State} (hw : t.cfgWidth = s.cfgWidth) (hh : t.cfgHeight = s.cfgHeight)
    (hp : t.cfgBpp = s.cfgBpp) : t.size = s.size := by simp [State.size, State.bpp, hw, hh, hp]

theorem State.lineBytes_congr {s t : State} (hw : t.cfgWidth = s.cfgWidth) (hp : t.cfgBpp = s.cfgBpp) :
    t.lineBytes = s.lineBytes := by simp [State.lineBytes, State.bpp, hw, hp]

theorem State.prefixBytes_congr {s t : State} (hw : t.cfgWidth = s.cfgWidth) (hh : t.cfgHeight = s.cfgHeight)
    (hp : t.cfgBpp = s.cfgBpp) : t.prefixBytes = s.prefixBytes := by
  simp [State.prefixBytes, State.size_congr hw hh hp, State.bpp_congr hp]

@[simp] theorem loopTest_bpp (s : State) : (loopTest s).bpp = s.bpp := State.bpp_congr (by simp)

@[simp] theorem loopTest_size (s : State) : (loopTest s).size = s.size := State.size_congr (by simp) (by simp) (by simp)

@[simp] theorem loopTest_prefixBytes (s : State) : (loopTest s).prefixBytes = s.prefixBytes :=
  State.prefixBytes_congr (by simp) (by simp) (by simp)

@[simp] theorem raise_size (c : FaultCode) (s : State) : (raise c s).size = s.size := rfl

@[simp] theorem raise_bpp (c : FaultCode) (s : State) : (raise c s).bpp = s.bpp := rfl

/-- SIZE is a whole number of pixel-groups (10_state R21). -/
theorem State.size_mod_bpp (s : State) : s.size % s.bpp = 0 := Nat.mul_mod_left _ _

theorem State.prefixBytes_le_size (s : State) : s.prefixBytes ≤ s.size := Nat.min_le_right _ _

/-- A legal configuration has one or three bytes per pixel (10_state R20). -/
theorem State.bpp_of_legal {s : State} (h : s.configLegal = true) : s.bpp = 1 ∨ s.bpp = 3 := by
  rcases (by simpa [State.configLegal] using h : s.cfgBpp = 1 ∨ s.cfgBpp = 3) with h | h <;> simp [State.bpp, h]

/-! ## Canvas accesses -/

theorem storeCanvas_cases (a : Nat) (v : Byte) (s : State) :
    (s.size ≤ a ∧ storeCanvas a v s = .error (.canvasOutside a)) ∨
    (a < s.size ∧ storeCanvas a v s = .ok { s with canvas := Memory.write s.canvas a v }) := by
  unfold storeCanvas
  split
  · exact .inl ⟨by assumption, rfl⟩
  · exact .inr ⟨by omega, rfl⟩

theorem storeCanvas_ok {a : Nat} {v : Byte} {s t : State} (h : storeCanvas a v s = .ok t) :
    a < s.size ∧ t = { s with canvas := Memory.write s.canvas a v } := by
  rcases storeCanvas_cases a v s with ⟨_, e⟩ | ⟨ha, e⟩ <;> rw [e] at h <;> cases h
  exact ⟨ha, rfl⟩

theorem refByte_ok {s : State} {r : Byte} (h : refByte s = .ok r) :
    s.bpp ≤ s.cur ∧ s.cur - s.bpp < s.size ∧ r = s.canvasByte (s.cur - s.bpp) := by
  unfold refByte at h
  split at h
  · cases h
  · split at h
    · cases h
    · cases h; exact ⟨by omega, by omega, rfl⟩

theorem refByte_of_le {s : State} (h : s.bpp ≤ s.cur) (h' : s.cur - s.bpp < s.size) :
    refByte s = .ok (s.canvasByte (s.cur - s.bpp)) := by
  unfold refByte; rw [if_neg (by omega), if_neg (by omega)]

/-! ## The shared part of the meanings -/

theorem writeRaw_next {v : Byte} {s t : State} (h : writeRaw v s = .next t) :
    s.cur < s.size ∧
      t = loopTest { s with val := v, canvas := Memory.write s.canvas s.cur v, cur := s.cur + 1 } := by
  unfold writeRaw at h
  rcases storeCanvas_cases s.cur v { s with val := v } with ⟨_, e⟩ | ⟨hc, e⟩ <;> rw [e] at h <;> cases h
  exact ⟨hc, rfl⟩

theorem writePixel_next {value : Byte → Byte} {s t : State} (h : writePixel value s = .next t) :
    s.bpp ≤ s.cur ∧ s.cur < s.size ∧
      t = loopTest { s with
        ref := s.canvasByte (s.cur - s.bpp), val := value (s.canvasByte (s.cur - s.bpp)),
        canvas := Memory.write s.canvas s.cur (value (s.canvasByte (s.cur - s.bpp))),
        dict := update s.dict (s.canvasByte (s.cur - s.bpp)) (value (s.canvasByte (s.cur - s.bpp))),
        cur := s.cur + s.bpp } := by
  unfold writePixel at h
  split at h
  · cases h
  · rename_i r hr
    obtain ⟨hp, _, rfl⟩ := refByte_ok hr
    dsimp only at h
    split at h
    · cases h
    · rename_i u hu
      obtain ⟨hc, rfl⟩ := storeCanvas_ok hu
      cases h; exact ⟨hp, hc, rfl⟩

/-- A copy that goes on either overruns the canvas, and then records LEN, W and SRC and enters FAULT, or copies its run. -/
theorem copyRun_next {op : CopyOp} {n : BitVec 32} {s t : State} (h : copyRun op n s = .next t) :
    ∃ src, sourceOffset op s.bpp s.lineBytes s.cur = some src ∧
      ((s.size < s.cur + n.toNat * s.bpp ∧
          t = raise .canvasOverrun { s with len := n, w := s.cur, src := src }) ∨
       (s.cur + n.toNat * s.bpp ≤ s.size ∧ (0 < n.toNat * s.bpp → src + n.toNat * s.bpp ≤ s.size) ∧
          t = loopTest { s with
            len := n, w := s.cur, src := src,
            canvas := copyForward s.canvas src s.cur (n.toNat * s.bpp), cur := s.cur + n.toNat * s.bpp })) := by
  unfold copyRun at h
  split at h
  · cases h
  · rename_i src hsrc
    refine ⟨src, hsrc, ?_⟩
    dsimp only at h
    split at h
    · cases h; exact .inl ⟨by assumption, rfl⟩
    · split at h
      · cases h
      · cases h; exact .inr ⟨by omega, fun _ => by omega, rfl⟩

/-! ## The end of a step -/

/-- What the loop tests do: nothing, PREFIX to LOOP, or the end of the pass. -/
theorem loopTest_cases (s : State) :
    (loopTest s = s ∧ (s.phase = .litPrefix → s.cur < s.prefixBytes) ∧ (s.phase = .mainLoop → s.cur < s.size)) ∨
    (loopTest s = { s with phase := .mainLoop } ∧ s.phase = .litPrefix ∧ s.prefixBytes ≤ s.cur ∧ s.cur < s.size) ∨
    (loopTest s = finish { s with phase := .mainLoop } ∧ s.size ≤ s.cur ∧
      (s.phase = .litPrefix ∨ s.phase = .mainLoop)) := by
  unfold loopTest
  by_cases hp : s.phase = .litPrefix ∧ s.prefixBytes ≤ s.cur
  · rw [if_pos hp]
    by_cases hs : s.size ≤ s.cur
    · exact .inr (.inr ⟨if_pos ⟨rfl, hs⟩, hs, .inl hp.1⟩)
    · exact .inr (.inl ⟨if_neg fun h => hs h.2, hp.1, hp.2, Nat.lt_of_not_le hs⟩)
  · rw [if_neg hp]
    by_cases hs : s.phase = .mainLoop ∧ s.size ≤ s.cur
    · refine .inr (.inr ⟨?_, hs.2, .inr hs.1⟩)
      dsimp only
      rw [if_pos hs, ← hs.1]
    · exact .inl ⟨if_neg hs, fun h => Nat.lt_of_not_le fun h' => hp ⟨h, h'⟩,
        fun h => Nat.lt_of_not_le fun h' => hs ⟨h, h'⟩⟩

theorem finish_decode {s : State} (h : s.cfgMode = .decode) : finish s = { s with phase := .done } := by
  unfold finish; rw [h]

theorem finish_encode {s : State} (h : s.cfgMode = .encode) : finish s = { flush s with phase := .done } := by
  unfold finish; rw [h]

/-! ## Reading and writing bits -/

/-- A read of the Bit Reader fails without touching a register, or changes SPOS, BITCNT and BITBUF alone. -/
theorem takeBits_cases (n : Nat) (s : State) :
    (s.bitCnt.toNat + 8 * (s.streamLen - s.spos) < n ∧ takeBits n s = .error s) ∨
    (n ≤ s.bitCnt.toNat + 8 * (s.streamLen - s.spos) ∧
      ∃ v p c b, takeBits n s = .ok (v, { s with spos := p, bitCnt := c, bitBuf := b })) := by
  unfold takeBits
  split
  · exact .inl ⟨by assumption, rfl⟩
  · exact .inr ⟨by omega, _, _, _, _, rfl⟩

theorem readBits_eq_takeBits (n : Nat) (h : ReadWidth n) (s : State) : readBits n h s = takeBits n s := rfl

@[simp] theorem writeBits_zero (v : Nat) (s : State) : writeBits v 0 s = s := rfl

theorem writeBits_eq_foldl (v n : Nat) (s : State) : writeBits v n s = (natBits n v).foldl writeBit s := rfl

/-- Writing bits leaves CUR, the dictionary, the canvas and the configuration alone. -/
theorem foldl_writeBit_frame (bits : List Bool) (s : State) :
    (bits.foldl writeBit s).cur = s.cur ∧ (bits.foldl writeBit s).dict = s.dict ∧
    (bits.foldl writeBit s).canvas = s.canvas ∧ (bits.foldl writeBit s).phase = s.phase ∧
    (bits.foldl writeBit s).cfgWidth = s.cfgWidth ∧ (bits.foldl writeBit s).cfgHeight = s.cfgHeight ∧
    (bits.foldl writeBit s).cfgBpp = s.cfgBpp ∧ (bits.foldl writeBit s).cfgMode = s.cfgMode := by
  induction bits generalizing s with
  | nil => simp
  | cons b bits ih => simpa using ih (writeBit s b)

/-! ## A step -/

/-- What a step of the machine can do: a running pass takes a step of its engine or leaves a finished loop; otherwise the
host's START is consumed. -/
theorem step_cases (s : State) :
    (s.running = true ∧ (dropStart s).unfinished = true ∧ s.cfgMode = .decode ∧ step s = decodeStep (dropStart s)) ∨
    (s.running = true ∧ (dropStart s).unfinished = true ∧ s.cfgMode = .encode ∧ step s = encodeStep (dropStart s)) ∨
    (s.running = true ∧ (dropStart s).unfinished = false ∧ step s = .next (loopTest (dropStart s))) ∨
    (s.running = false ∧ step s = .next (waitStep s)) := by
  unfold step machineStep passStep
  cases hr : s.running with
  | false => simp
  | true =>
    cases hu : (dropStart s).unfinished with
    | false => simp
    | true => cases hm : s.cfgMode <;> simp [hm]

/-- The host's START of a waiting machine is the step that finds the command bit up. -/
theorem step_of_hostStart {s : State} (h : s.running = false) :
    step { s with ctrlStart := true } = .next (hostStart s) := by
  have h' : State.running { s with ctrlStart := true } = false := h
  simp [step, machineStep, hostStart, h, h']

/-- A START that is not accepted has no effect (10_state R33, 60_exceptions R270, R273). -/
theorem hostStart_refused {s : State} (h : s.running = true ∨ (s.configLegal = false ∧ s.ctrlStart = false)) :
    hostStart s = s := by
  unfold hostStart
  split
  · rfl
  · rcases h with h | ⟨hl, hc⟩
    · contradiction
    · have hl' : State.configLegal { s with ctrlStart := true } = false := hl
      simp only [waitStep, hl', Bool.false_eq_true, and_false, if_false, dropStart]
      cases s; simp_all

/-- What a host write can do: be refused between START and the end of a pass, or write. -/
theorem hostWrite_cases (s t : State) :
    (s.busy = true ∧ hostWrite s t = .refused .hostWriteDuringPass) ∨ (s.busy = false ∧ hostWrite s t = .next t) := by
  unfold hostWrite
  cases s.busy <;> simp

theorem hostRead_busy {α : Type} [Inhabited α] (item : HostItem) (x : α) {s : State} (h : s.busy = true) :
    hostRead item x s = Config.hidden (s, item) := by simp [hostRead, h]

theorem hostReadUnlessFault_busy {α : Type} [Inhabited α] (item : HostItem) (x : α) {s : State} (h : s.busy = true) :
    hostReadUnlessFault item x s = Config.hidden (s, item) := by simp [hostReadUnlessFault, hostRead_busy _ _ h]

theorem hostReadUnlessFault_fault {α : Type} [Inhabited α] (item : HostItem) (x : α) {s : State} (h : s.phase = .fault) :
    hostReadUnlessFault item x s = Config.hidden (s, item) := by simp [hostReadUnlessFault, h]

theorem hostRead_idle {α : Type} [Inhabited α] (item : HostItem) (x : α) {s : State} (h : s.busy = false) :
    hostRead item x s = x := by simp [hostRead, h]

theorem hostReadUnlessFault_idle {α : Type} [Inhabited α] (item : HostItem) (x : α) {s : State} (h : s.busy = false)
    (hf : s.phase ≠ .fault) : hostReadUnlessFault item x s = x := by simp [hostReadUnlessFault, hf, hostRead_idle _ _ h]

/-- What a step of the decoder engine can do: execute the fetched operation, or raise TruncatedStream. -/
theorem decodeStep_cases (s : State) :
    (∃ i t, fetch s = .ok (i, t) ∧ decodeStep s = exec i t) ∨
    (∃ t, fetch s = .error t ∧ decodeStep s = .next (raise .truncatedStream t)) := by
  unfold decodeStep
  split
  · exact .inl ⟨_, _, by assumption, rfl⟩
  · exact .inr ⟨_, by assumption, rfl⟩

/-- What a step without a running pass can do: consume the command, and start the pass if it is legal. -/
theorem waitStep_cases (s : State) :
    (s.ctrlStart = true ∧ s.configLegal = true ∧ waitStep s = startPass (dropStart s)) ∨
    (¬(s.ctrlStart = true ∧ s.configLegal = true) ∧ waitStep s = dropStart s) := by
  unfold waitStep
  split
  · exact .inl ⟨by simp_all, by simp_all, rfl⟩
  · exact .inr ⟨by assumption, rfl⟩

/-- What a step of the encoder engine can do. -/
theorem encodeStep_cases (s : State) :
    (s.phase = .litPrefix ∧ encodeStep s = .next (loopTest (emitPrefixByte s))) ∨
    (s.phase ≠ .litPrefix ∧ ∃ t, emitOperation s = .ok t ∧ encodeStep s = .next (loopTest t)) ∨
    (s.phase ≠ .litPrefix ∧ ∃ f, emitOperation s = .error f ∧ encodeStep s = .fault f) := by
  unfold encodeStep
  split
  · exact .inl ⟨by assumption, rfl⟩
  · split
    · exact .inr (.inl ⟨by assumption, _, by assumption, rfl⟩)
    · exact .inr (.inr ⟨by assumption, _, by assumption, rfl⟩)

/-- What an iteration of the encoder's main loop can do: the best copy when it reaches two groups, else a pixel. -/
theorem emitOperation_cases (s : State) :
    (∃ op n, best s = (some op, n) ∧ 2 ≤ n ∧ emitOperation s = .ok (emitCopy op n s)) ∨
    (((best s).1 = none ∨ (best s).2 < 2) ∧ emitOperation s = emitPixel s) := by
  unfold emitOperation
  split
  · rename_i op n h
    by_cases hn : 2 ≤ n
    · exact .inl ⟨op, n, h, hn, by simp [hn]⟩
    · exact .inr ⟨.inr (by rw [h]; simpa using hn), by simp [hn]⟩
  · rename_i n h
    exact .inr ⟨.inl (by rw [h]), rfl⟩

theorem emitPixel_ok {s t : State} (h : emitPixel s = .ok t) :
    s.bpp ≤ s.cur ∧ s.cur - s.bpp < s.size ∧
      t = { emitPixelBits (find s.dict (s.canvasByte (s.cur - s.bpp)) (s.canvasByte s.cur)) (s.canvasByte s.cur)
              { s with val := s.canvasByte s.cur, ref := s.canvasByte (s.cur - s.bpp) } with
            dict := update s.dict (s.canvasByte (s.cur - s.bpp)) (s.canvasByte s.cur), cur := s.cur + s.bpp } := by
  unfold emitPixel at h
  split at h
  · cases h
  · rename_i r hr
    obtain ⟨hp, hs, rfl⟩ := refByte_ok hr
    cases h; exact ⟨hp, hs, rfl⟩

end Sys2Proof.Machine
end

