-- ==== Sys2Proof/Laws/PerInstr.lean ====
section
/-! SUPPORT. Statements about every operation as syntax, one lemma per constructor of `Instr`. -/

namespace Sys2Proof

/-- The length in bits of each operation, as 30_encoding R99 lists it. -/
def Laws.tableBits : Instr → Nat
  | .raw _ => 8
  | .dic _ => 5
  | .lit _ => 10
  | .cprevV2 _ => 4
  | .cprevV6 _ => 8
  | .cprevV14 _ => 16
  | .cprevV30 _ => 32
  | .cprevV62 _ _ => 64
  | .cupV2 _ => 6
  | .cupV6 _ => 10
  | .cupV14 _ => 18
  | .cupV30 _ => 34
  | .cupV62 _ _ => 66
  | .cuprV2 _ => 6
  | .cuprV6 _ => 10
  | .cuprV14 _ => 18
  | .cuprV30 _ => 34
  | .cuprV62 _ _ => 66
  | .cuplV2 _ => 6
  | .cuplV6 _ => 10
  | .cuplV14 _ => 18
  | .cuplV30 _ => 34
  | .cuplV62 _ _ => 66
  | .cprev2V2 _ => 6
  | .cprev2V6 _ => 10
  | .cprev2V14 _ => 18
  | .cprev2V30 _ => 34
  | .cprev2V62 _ _ => 66

/-- The encoding of an operation has the length that 30_encoding R99 gives it. -/
def Laws.EncodedLength.Statement (i : Instr) : Prop := (encode i).length = Laws.tableBits i

theorem Laws.EncodedLength.raw (v : Byte) : Laws.EncodedLength.Statement (.raw v) := by simp [Laws.EncodedLength.Statement, encode, Laws.tableBits]

theorem Laws.EncodedLength.lit (v : Byte) : Laws.EncodedLength.Statement (.lit v) := by simp [Laws.EncodedLength.Statement, encode, Laws.tableBits]

theorem Laws.EncodedLength.dic (s : BitVec 3) : Laws.EncodedLength.Statement (.dic s) := by simp [Laws.EncodedLength.Statement, encode, Laws.tableBits]

theorem Laws.EncodedLength.cprevV2 (a : BitVec 2) : Laws.EncodedLength.Statement (.cprevV2 a) := by
  simp [Laws.EncodedLength.Statement, encode, Laws.tableBits, Run.bits, CopyOp.bits, CopyOp.code]

theorem Laws.EncodedLength.cprevV6 (b : BitVec 4) : Laws.EncodedLength.Statement (.cprevV6 b) := by
  simp [Laws.EncodedLength.Statement, encode, Laws.tableBits, Run.bits, CopyOp.bits, CopyOp.code]

theorem Laws.EncodedLength.cprevV14 (c : BitVec 8) : Laws.EncodedLength.Statement (.cprevV14 c) := by
  simp [Laws.EncodedLength.Statement, encode, Laws.tableBits, Run.bits, CopyOp.bits, CopyOp.code]

theorem Laws.EncodedLength.cprevV30 (d : BitVec 16) : Laws.EncodedLength.Statement (.cprevV30 d) := by
  simp [Laws.EncodedLength.Statement, encode, Laws.tableBits, Run.bits, CopyOp.bits, CopyOp.code]

theorem Laws.EncodedLength.cprevV62 (h l : BitVec 16) : Laws.EncodedLength.Statement (.cprevV62 h l) := by
  simp [Laws.EncodedLength.Statement, encode, Laws.tableBits, Run.bits, CopyOp.bits, CopyOp.code]

theorem Laws.EncodedLength.cupV2 (a : BitVec 2) : Laws.EncodedLength.Statement (.cupV2 a) := by
  simp [Laws.EncodedLength.Statement, encode, Laws.tableBits, Run.bits, CopyOp.bits, CopyOp.code]

theorem Laws.EncodedLength.cupV6 (b : BitVec 4) : Laws.EncodedLength.Statement (.cupV6 b) := by
  simp [Laws.EncodedLength.Statement, encode, Laws.tableBits, Run.bits, CopyOp.bits, CopyOp.code]

theorem Laws.EncodedLength.cupV14 (c : BitVec 8) : Laws.EncodedLength.Statement (.cupV14 c) := by
  simp [Laws.EncodedLength.Statement, encode, Laws.tableBits, Run.bits, CopyOp.bits, CopyOp.code]

theorem Laws.EncodedLength.cupV30 (d : BitVec 16) : Laws.EncodedLength.Statement (.cupV30 d) := by
  simp [Laws.EncodedLength.Statement, encode, Laws.tableBits, Run.bits, CopyOp.bits, CopyOp.code]

theorem Laws.EncodedLength.cupV62 (h l : BitVec 16) : Laws.EncodedLength.Statement (.cupV62 h l) := by
  simp [Laws.EncodedLength.Statement, encode, Laws.tableBits, Run.bits, CopyOp.bits, CopyOp.code]

theorem Laws.EncodedLength.cuprV2 (a : BitVec 2) : Laws.EncodedLength.Statement (.cuprV2 a) := by
  simp [Laws.EncodedLength.Statement, encode, Laws.tableBits, Run.bits, CopyOp.bits, CopyOp.code]

theorem Laws.EncodedLength.cuprV6 (b : BitVec 4) : Laws.EncodedLength.Statement (.cuprV6 b) := by
  simp [Laws.EncodedLength.Statement, encode, Laws.tableBits, Run.bits, CopyOp.bits, CopyOp.code]

theorem Laws.EncodedLength.cuprV14 (c : BitVec 8) : Laws.EncodedLength.Statement (.cuprV14 c) := by
  simp [Laws.EncodedLength.Statement, encode, Laws.tableBits, Run.bits, CopyOp.bits, CopyOp.code]

theorem Laws.EncodedLength.cuprV30 (d : BitVec 16) : Laws.EncodedLength.Statement (.cuprV30 d) := by
  simp [Laws.EncodedLength.Statement, encode, Laws.tableBits, Run.bits, CopyOp.bits, CopyOp.code]

theorem Laws.EncodedLength.cuprV62 (h l : BitVec 16) : Laws.EncodedLength.Statement (.cuprV62 h l) := by
  simp [Laws.EncodedLength.Statement, encode, Laws.tableBits, Run.bits, CopyOp.bits, CopyOp.code]

theorem Laws.EncodedLength.cuplV2 (a : BitVec 2) : Laws.EncodedLength.Statement (.cuplV2 a) := by
  simp [Laws.EncodedLength.Statement, encode, Laws.tableBits, Run.bits, CopyOp.bits, CopyOp.code]

theorem Laws.EncodedLength.cuplV6 (b : BitVec 4) : Laws.EncodedLength.Statement (.cuplV6 b) := by
  simp [Laws.EncodedLength.Statement, encode, Laws.tableBits, Run.bits, CopyOp.bits, CopyOp.code]

theorem Laws.EncodedLength.cuplV14 (c : BitVec 8) : Laws.EncodedLength.Statement (.cuplV14 c) := by
  simp [Laws.EncodedLength.Statement, encode, Laws.tableBits, Run.bits, CopyOp.bits, CopyOp.code]

theorem Laws.EncodedLength.cuplV30 (d : BitVec 16) : Laws.EncodedLength.Statement (.cuplV30 d) := by
  simp [Laws.EncodedLength.Statement, encode, Laws.tableBits, Run.bits, CopyOp.bits, CopyOp.code]

theorem Laws.EncodedLength.cuplV62 (h l : BitVec 16) : Laws.EncodedLength.Statement (.cuplV62 h l) := by
  simp [Laws.EncodedLength.Statement, encode, Laws.tableBits, Run.bits, CopyOp.bits, CopyOp.code]

theorem Laws.EncodedLength.cprev2V2 (a : BitVec 2) : Laws.EncodedLength.Statement (.cprev2V2 a) := by
  simp [Laws.EncodedLength.Statement, encode, Laws.tableBits, Run.bits, CopyOp.bits, CopyOp.code]

theorem Laws.EncodedLength.cprev2V6 (b : BitVec 4) : Laws.EncodedLength.Statement (.cprev2V6 b) := by
  simp [Laws.EncodedLength.Statement, encode, Laws.tableBits, Run.bits, CopyOp.bits, CopyOp.code]

theorem Laws.EncodedLength.cprev2V14 (c : BitVec 8) : Laws.EncodedLength.Statement (.cprev2V14 c) := by
  simp [Laws.EncodedLength.Statement, encode, Laws.tableBits, Run.bits, CopyOp.bits, CopyOp.code]

theorem Laws.EncodedLength.cprev2V30 (d : BitVec 16) : Laws.EncodedLength.Statement (.cprev2V30 d) := by
  simp [Laws.EncodedLength.Statement, encode, Laws.tableBits, Run.bits, CopyOp.bits, CopyOp.code]

theorem Laws.EncodedLength.cprev2V62 (h l : BitVec 16) : Laws.EncodedLength.Statement (.cprev2V62 h l) := by
  simp [Laws.EncodedLength.Statement, encode, Laws.tableBits, Run.bits, CopyOp.bits, CopyOp.code]

end Sys2Proof
end

