-- ==== Sys2Proof/Tests/Slice0.lean ====
section
/-! SUPPORT. The tests of the model: words written out from 30_encoding, single steps from the worked examples of
95_test_vectors (the vector is named at each test), and for every obligation a state and operands that meet its
hypotheses. -/

namespace Sys2Proof.Tests

open Sys2Proof Sys2Proof.Machine

/-! ## Helpers -/

/-- The whole of `bits` is one operation. -/
def readsAs (part : StreamPart) (bits : List Bool) : Option Instr :=
  match decode part bits with
  | .ok (i, []) => some i
  | _ => none

/-- The outcome is a next state with the property `p`. -/
def next (o : Host.Outcome State Fault Refusal) (p : State → Bool) : Bool :=
  match o with
  | .next t => p t
  | _ => false

/-- The state of a next outcome. -/
def after (o : Host.Outcome State Fault Refusal) : State :=
  match o with
  | .next t => t
  | _ => State.reset

/-- A machine the host has configured and filled, waiting. -/
def loaded (m : Mode) (p : BitVec 2) (w h : BitVec 16) (stream canvas : List Byte) : State :=
  { State.reset with
    cfgMode := m, cfgBpp := p, cfgWidth := w, cfgHeight := h, cfgSlen := BitVec.ofNat 32 stream.length,
    stream := Memory.writeBytes [] 0 stream, canvas := Memory.writeBytes [] 0 canvas }

/-- The command bit is up: the next step is the START. -/
def started (s : State) : State := { s with ctrlStart := true }

/-- A pass in the literal prefix, at cursor `cur`. -/
def inPrefix (cur : Nat) (s : State) : State := { s with phase := .litPrefix, cur := cur, dict := seedDict }

/-- A pass in the main loop, at cursor `cur`. -/
def inLoop (cur : Nat) (s : State) : State := { s with phase := .mainLoop, cur := cur, dict := seedDict }

/-- The Bit Reader stands before byte `n` of the stream. -/
def atByte (n : Nat) (s : State) : State := { s with spos := n }

/-- The first `n` bytes of the canvas. -/
def pixels (n : Nat) (s : State) : List Byte := (List.range n).map s.canvasByte

/-- A decode pass of a 4 by 2 image (`P = 1`) in the main loop. -/
def loop42 (cur : Nat) (canvas : List Byte) : State := inLoop cur (loaded .decode 1 4 2 [] canvas)

/-! ## Well-formedness: each check refuses its escape pattern (30_encoding R98, R106) -/

theorem test_wellFormed_refuses_zero_v2 :
    Instr.wellFormed (.cprevV2 0) = false ∧ Instr.wellFormed (.cupV2 0) = false ∧ Instr.wellFormed (.cuprV2 0) = false ∧
    Instr.wellFormed (.cuplV2 0) = false ∧ Instr.wellFormed (.cprev2V2 0) = false := by decide

theorem test_wellFormed_refuses_zero_v6 :
    Instr.wellFormed (.cprevV6 0) = false ∧ Instr.wellFormed (.cupV6 0) = false ∧ Instr.wellFormed (.cuprV6 0) = false ∧
    Instr.wellFormed (.cuplV6 0) = false ∧ Instr.wellFormed (.cprev2V6 0) = false := by decide

theorem test_wellFormed_refuses_zero_v14 :
    Instr.wellFormed (.cprevV14 0) = false ∧ Instr.wellFormed (.cupV14 0) = false ∧
    Instr.wellFormed (.cuprV14 0) = false ∧ Instr.wellFormed (.cuplV14 0) = false ∧
    Instr.wellFormed (.cprev2V14 0) = false := by decide

theorem test_wellFormed_refuses_zero_v30 :
    Instr.wellFormed (.cprevV30 0) = false ∧ Instr.wellFormed (.cupV30 0) = false ∧
    Instr.wellFormed (.cuprV30 0) = false ∧ Instr.wellFormed (.cuplV30 0) = false ∧
    Instr.wellFormed (.cprev2V30 0) = false := by decide

theorem test_wellFormed_accepts_the_rest :
    WellFormed (.raw 0) ∧ WellFormed (.lit 0) ∧ WellFormed (.dic 0) ∧ WellFormed (.cprevV2 1) ∧ WellFormed (.cupV6 15) ∧
    WellFormed (.cuprV14 1) ∧ WellFormed (.cuplV30 65535) ∧ WellFormed (.cprev2V62 0 0) := by decide

/-! ## Decoding: a word of every row, written out from 30_encoding R94 to R98 -/

theorem test_decode_raw : readsAs .rawBytes (natBits 8 0b00010010) = some (.raw 18) := by decide

theorem test_decode_lit : readsAs .operations (natBits 10 0b01_00011110) = some (.lit 30) := by decide

theorem test_decode_dic : readsAs .operations (natBits 5 0b00_011) = some (.dic 3) := by decide

theorem test_decode_cprevV2 : readsAs .operations (natBits 4 0b10_01) = some (.cprevV2 1) := by decide

theorem test_decode_cprevV6 : readsAs .operations (natBits 8 0b10_00_1011) = some (.cprevV6 11) := by decide

theorem test_decode_cprevV14 : readsAs .operations (natBits 16 0b10_00_0000_00110010) = some (.cprevV14 50) := by decide

theorem test_decode_cprevV30 :
    readsAs .operations (natBits 32 0b10_00_0000_00000000_0000000100000001) = some (.cprevV30 257) := by decide

theorem test_decode_cprevV62 :
    readsAs .operations (natBits 64 0b10_00_0000_00000000_0000000000000000_0000000000000001_0000000000000010) =
      some (.cprevV62 1 2) := by decide

theorem test_decode_cupV2 : readsAs .operations (natBits 6 0b1100_10) = some (.cupV2 2) := by decide

theorem test_decode_cupV6 : readsAs .operations (natBits 10 0b1100_00_0001) = some (.cupV6 1) := by decide

theorem test_decode_cupV14 : readsAs .operations (natBits 18 0b1100_00_0000_00000101) = some (.cupV14 5) := by decide

theorem test_decode_cupV30 :
    readsAs .operations (natBits 34 0b1100_00_0000_00000000_1000000000000000) = some (.cupV30 32768) := by decide

theorem test_decode_cupV62 :
    readsAs .operations (natBits 66 0b1100_00_0000_00000000_0000000000000000_1111111111111111_1111111111111111) =
      some (.cupV62 65535 65535) := by decide

theorem test_decode_cuprV2 : readsAs .operations (natBits 6 0b1101_10) = some (.cuprV2 2) := by decide

theorem test_decode_cuprV6 : readsAs .operations (natBits 10 0b1101_00_0100) = some (.cuprV6 4) := by decide

theorem test_decode_cuprV14 : readsAs .operations (natBits 18 0b1101_00_0000_10000000) = some (.cuprV14 128) := by decide

theorem test_decode_cuprV30 :
    readsAs .operations (natBits 34 0b1101_00_0000_00000000_0000000000000111) = some (.cuprV30 7) := by decide

theorem test_decode_cuprV62 :
    readsAs .operations (natBits 66 0b1101_00_0000_00000000_0000000000000000_0000000000000001_0000000000000000) =
      some (.cuprV62 1 0) := by decide

theorem test_decode_cuplV2 : readsAs .operations (natBits 6 0b1110_11) = some (.cuplV2 3) := by decide

theorem test_decode_cuplV6 : readsAs .operations (natBits 10 0b1110_00_1000) = some (.cuplV6 8) := by decide

theorem test_decode_cuplV14 : readsAs .operations (natBits 18 0b1110_00_0000_00000001) = some (.cuplV14 1) := by decide

theorem test_decode_cuplV30 :
    readsAs .operations (natBits 34 0b1110_00_0000_00000000_0000000100000000) = some (.cuplV30 256) := by decide

theorem test_decode_cuplV62 :
    readsAs .operations (natBits 66 0b1110_00_0000_00000000_0000000000000000_0000000000000000_0000000000001001) =
      some (.cuplV62 0 9) := by decide

theorem test_decode_cprev2V2 : readsAs .operations (natBits 6 0b1111_10) = some (.cprev2V2 2) := by decide

theorem test_decode_cprev2V6 : readsAs .operations (natBits 10 0b1111_00_1111) = some (.cprev2V6 15) := by decide

theorem test_decode_cprev2V14 : readsAs .operations (natBits 18 0b1111_00_0000_00010011) = some (.cprev2V14 19) := by
  decide

theorem test_decode_cprev2V30 :
    readsAs .operations (natBits 34 0b1111_00_0000_00000000_0000000000001001) = some (.cprev2V30 9) := by decide

theorem test_decode_cprev2V62 :
    readsAs .operations (natBits 66 0b1111_00_0000_00000000_0000000000000000_0001001000110100_0101011001111000) =
      some (.cprev2V62 0x1234 0x5678) := by decide

/-- The bits end inside a run count (30_encoding R92, vector F3). -/
theorem test_decode_rejects_truncated :
    decode .operations (natBits 8 0b10_00_0000) = .error .truncatedStream ∧ decode .rawBytes (natBits 7 0) =
      .error .truncatedStream := by decide

/-- A word of the opcode table in whole bytes (98_reader), of each length. -/
theorem test_decodeTableWord :
    decodeTableWord 8 0x12 = some (.raw 0x12) ∧ decodeTableWord 16 0b01_00011110 = some (.lit 30) ∧
    decodeTableWord 8 0b00_011 = some (.dic 3) ∧ decodeTableWord 8 0b1001 = some (.cprevV2 1) ∧
    decodeTableWord 8 0b1100_10 = some (.cupV2 2) ∧ decodeTableWord 16 0b1101_00_0100 = some (.cuprV6 4) ∧
    decodeTableWord 24 0b1110_00_0000_00000001 = some (.cuplV14 1) := by decide

/-! ## Bit Reader and Writer (vectors B1, B2, W1 to W4) -/

/-- The value a read gives, with SPOS, BITCNT and BITBUF after it. -/
def readResult (n : Nat) (s : State) (h : ReadWidth n := by decide) : Option (Nat × Nat × Nat × Nat) :=
  match readBits n h s with
  | .ok (v, t) => some (v.toNat, t.spos, t.bitCnt.toNat, t.bitBuf.toNat)
  | .error _ => none

/-- A decode pass over `bytes` whose reader holds the given registers. -/
def reader (bytes : List Byte) (spos : Nat) (cnt : BitVec 3) (buf : BitVec 7) : State :=
  { loaded .decode 1 1 1 bytes [] with spos := spos, bitCnt := cnt, bitBuf := buf }

theorem test_readBits_b1 :
    readResult 1 (reader [0xA5, 0x3C, 0xF0, 0x0F] 0 0 0) = some (1, 1, 7, 37) ∧
    readResult 4 (reader [0xA5, 0x3C, 0xF0, 0x0F] 1 2 1) = some (4, 2, 6, 60) ∧
    readResult 4 (reader [0xA5, 0x3C, 0xF0, 0x0F] 4 4 15) = some (15, 4, 0, 0) ∧
    readResult 1 (reader [0xA5, 0x3C, 0xF0, 0x0F] 4 0 0) = none := by decide

theorem test_readBits_b2 :
    readResult 16 (reader [0xB6, 0x7F, 0x01] 1 5 0b10110) = some (0xB3F8, 3, 5, 1) ∧
    readResult 8 (reader [0xB6, 0x7F, 0x01] 3 5 1) = none ∧
    readResult 4 (reader [0xB6, 0x7F, 0x01] 3 5 1) = some (0, 3, 1, 1) := by decide

/-- The writer at its START state. -/
def writer : State := loaded .encode 1 1 1 [] []

/-- OUT as bytes, OLEN, WACC and WCNT. -/
def written (s : State) : List Nat × Nat × Nat × Nat :=
  (s.out.map fun c => c.2.toNat, s.olen, s.wAcc.toNat, s.wCnt.toNat)

theorem test_writeBits_w1 :
    written (writeBits 5 3 writer) = ([], 0, 5, 3) ∧
    written (writeBits 0xB3F8 16 (writeBits 5 3 writer)) = ([0xB6, 0x7F], 2, 0, 3) ∧
    written (flush (writeBits 0xB3F8 16 (writeBits 5 3 writer))) = ([0xB6, 0x7F, 0x00], 3, 0, 0) := by decide

theorem test_writeBits_w2_w3_w4 :
    written (flush (writeBits 11 4 (writeBits 0 2 (writeBits 0b10 2 writer)))) = ([0x8B], 1, 0, 0) ∧
    written (flush (writeBits 0b10 2 (writeBits 0b1111 4 writer))) = ([0xF8], 1, 0, 0) ∧
    written (writeBits 0x1FF 8 writer) = ([0xFF], 1, 0, 0) := by decide

/-- The flushed bytes of a run count (vector 2.3). -/
theorem test_encodeVarint :
    (written (flush (encodeVarint 3 writer))).1 = [0xC0] ∧ (written (flush (encodeVarint 4 writer))).1 = [0x04] ∧
    (written (flush (encodeVarint 18 writer))).1 = [0x3C] ∧
    (written (flush (encodeVarint 19 writer))).1 = [0x00, 0x4C] ∧
    (written (flush (encodeVarint 255 writer))).1 = [0x03, 0xFC] ∧
    (written (flush (encodeVarint 256 writer))).1 = [0x00, 0x00, 0x04, 0x00] ∧
    (written (flush (encodeVarint 65535 writer))).1 = [0x00, 0x03, 0xFF, 0xFC] := by decide

theorem test_canonicalRun_longest_form :
    canonicalRun 65536 = .v62 1 0 ∧ canonicalRun 0x12345678 = .v62 0x1234 0x5678 ∧
    canonicalRun 0xFFFFFFFF = .v62 0xFFFF 0xFFFF := by decide

/-! ## Dictionary Cache (vector 2.4) -/

theorem test_moveToFront_present :
    moveToFront seedList 3 = #v[3, 0, 1, 2, 4, 5, 6, 7] ∧
    moveToFront #v[3, 0, 1, 2, 4, 5, 6, 7] 3 = #v[3, 0, 1, 2, 4, 5, 6, 7] ∧
    moveToFront #v[5, 206, 205, 204, 203, 202, 201, 7] 7 = #v[7, 5, 206, 205, 204, 203, 202, 201] := by decide

theorem test_moveToFront_absent :
    moveToFront #v[0, 3, 1, 2, 4, 5, 6, 7] 200 = #v[200, 0, 3, 1, 2, 4, 5, 6] ∧
    moveToFront #v[200, 0, 3, 1, 2, 4, 5, 6] 7 = #v[7, 200, 0, 3, 1, 2, 4, 5] := by decide

theorem test_update_one_list :
    dictList (update seedDict 7 200) 7 = #v[200, 0, 1, 2, 3, 4, 5, 6] ∧ dictList (update seedDict 7 200) 8 = seedList ∧
    find (update seedDict 7 200) 7 0 = some 1 ∧ find (update seedDict 7 200) 7 7 = none := by decide

/-! ## Decoder operations, one step each (vectors D1 to D10) -/

/-- D1: the last byte of a 2 by 1 image ends the pass. -/
theorem test_raw_ends_small_image :
    next (exec (.raw 239) (inPrefix 1 (loaded .decode 1 2 1 [] [18]))) fun t =>
      t.phase = .done ∧ t.cur = 2 ∧ pixels 2 t = [18, 239] := by decide

/-- Program 6: the sixth byte of the prefix for three bytes per pixel. -/
theorem test_raw_enters_loop :
    next (exec (.raw 102) (inPrefix 5 (loaded .decode 3 3 2 [] [17, 34, 51, 68, 85]))) fun t =>
      t.phase = .mainLoop ∧ t.cur = 6 ∧ t.val = 102 := by decide

/-- D10: three bytes per pixel. -/
theorem test_lit_three_bytes_per_pixel :
    next (exec (.lit 170) (inLoop 6 (loaded .decode 3 2 2 [] [17, 34, 51, 68, 85, 102]))) fun t =>
      t.ref = 68 ∧ t.cur = 9 ∧ pixels 7 t = [17, 34, 51, 68, 85, 102, 170] ∧ t.phase = .mainLoop ∧
      dictList t.dict 68 = #v[170, 0, 1, 2, 3, 4, 5, 6] := by decide

/-- D2: the slot is looked up before the update. -/
theorem test_dic_moves_slot_to_front :
    next (exec (.dic 4) (inLoop 2 (loaded .decode 1 1 6 [] [4, 4]))) fun t =>
      t.ref = 4 ∧ t.val = 4 ∧ t.slot = 4 ∧ t.cur = 3 ∧ pixels 3 t = [4, 4, 4] ∧
      dictList t.dict 4 = #v[4, 0, 1, 2, 3, 5, 6, 7] := by decide

/-- D6, second row: CPREV 3 at W = 5. -/
theorem test_cprev_fills :
    next (exec (.cprevV2 3) (loop42 5 [10, 11, 10, 11, 10])) fun t =>
      t.src = 4 ∧ t.len = 3 ∧ t.w = 5 ∧ t.cur = 8 ∧ t.phase = .done ∧
      pixels 8 t = [10, 11, 10, 11, 10, 10, 10, 10] := by decide

/-- D7: a run of length 0. -/
theorem test_cprev_zero_run :
    next (exec (.cprevV62 0 0) (inLoop 2 (loaded .decode 1 4 1 [] [7, 8]))) fun t =>
      t.cur = 2 ∧ t.len = 0 ∧ t.src = 1 ∧ t.phase = .mainLoop ∧ t.canvas = [(0, 7), (1, 8)] := by decide

/-- D5: CUP 4 at W = 4 = L. -/
theorem test_cup_copies_line :
    next (exec (.cupV6 1) (loop42 4 [1, 2, 3, 4])) fun t =>
      t.src = 0 ∧ t.len = 4 ∧ pixels 8 t = [1, 2, 3, 4, 1, 2, 3, 4] := by decide

/-- D6, first row: CUP 2 at W = 2 < L. -/
theorem test_cup_saturates :
    next (exec (.cupV2 2) (loop42 2 [10, 11])) fun t => t.src = 0 ∧ pixels 4 t = [10, 11, 10, 11] := by decide

/-- Program 3: CUPR at W = 9 with L = 8 (SRC = 2), here in a small image: L = 4, W = 5, SRC = 5 - 4 + 1 = 2. -/
theorem test_cupr_copies_up_right :
    next (exec (.cuprV2 2) (loop42 5 [1, 2, 3, 4, 5])) fun t => t.src = 2 ∧ pixels 7 t = [1, 2, 3, 4, 5, 3, 4] := by
  decide

/-- D6: CUPR 2 at W = 4, not above L: SRC = P = 1. -/
theorem test_cupr_falls_back :
    next (exec (.cuprV2 2) (loop42 4 [10, 11, 10, 11])) fun t =>
      t.src = 1 ∧ pixels 6 t = [10, 11, 10, 11, 11, 10] := by decide

/-- D5: CUPL 2 in a 5 by 2 image at W = 7: SRC = 1. -/
theorem test_cupl_copies_up_left :
    next (exec (.cuplV2 2) (inLoop 7 (loaded .decode 1 5 2 [] [1, 2, 3, 4, 5, 9, 1]))) fun t =>
      t.src = 1 ∧ pixels 9 t = [1, 2, 3, 4, 5, 9, 1, 2, 3] := by decide

/-- D6, second row: CUPL 3 at W = 2: SRC = 0, and the third byte copied is the first one written. -/
theorem test_cupl_saturates_and_overlaps :
    next (exec (.cuplV2 3) (loop42 2 [10, 11])) fun t => t.src = 0 ∧ pixels 5 t = [10, 11, 10, 11, 10] := by decide

/-- D4: CPREV2 4, period 2. -/
theorem test_cprev2_period_two :
    next (exec (.cprev2V6 1) (inLoop 2 (loaded .decode 1 1 6 [] [1, 2]))) fun t =>
      t.src = 0 ∧ t.phase = .done ∧ pixels 6 t = [1, 2, 1, 2, 1, 2] := by decide

/-- Program 6: CPREV2 1 copies the three bytes of one pixel. -/
theorem test_cprev2_three_bytes_per_pixel :
    next (exec (.cprev2V2 1) (inLoop 6 (loaded .decode 3 3 2 [] [17, 34, 51, 68, 85, 102]))) fun t =>
      t.src = 0 ∧ t.cur = 9 ∧ pixels 9 t = [17, 34, 51, 68, 85, 102, 17, 34, 51] := by decide

/-! ## Faults (vectors F3, F6, F8, D9) -/

/-- F6: the run does not fit; nothing is written. -/
theorem test_overrun :
    next (exec (.cprevV6 12) (inLoop 2 (loaded .decode 1 4 4 [] [5, 5]))) fun t =>
      t.phase = .fault ∧ t.faultCode.code = 2 ∧ t.cur = 2 ∧ t.len = 15 ∧ t.src = 1 ∧ t.canvas = [(0, 5), (1, 5)] := by
  decide

/-- F8: the product is exact. -/
theorem test_overrun_longest_run :
    next (exec (.cupV62 65535 65535) (inLoop 2 (loaded .decode 1 4 1 [] [3, 4]))) fun t =>
      t.phase = .fault ∧ t.faultCode.code = 2 ∧ t.cur = 2 := by decide

/-- F3: the stream ends inside a run count. -/
theorem test_step_truncated :
    next (step (atByte 2 (inLoop 2 (loaded .decode 1 4 4 [5, 5, 0x80] [5, 5])))) fun t =>
      t.phase = .fault ∧ t.faultCode.code = 1 ∧ t.cur = 2 ∧ t.bitPos = 24 ∧ t.canvas = [(0, 5), (1, 5)] := by decide

/-- D9: the step that ends the pass leaves the bytes after it unread. -/
theorem test_step_leaves_trailing_bytes :
    next (step (atByte 2 (inLoop 2 (loaded .decode 1 4 4 [5, 5, 0x8B, 0xFF, 0xEE] [5, 5])))) fun t =>
      t.phase = .done ∧ t.spos = 3 ∧ t.bitCnt = 0 ∧ t.cur = 16 ∧ t.opc = 2 := by decide

/-! ## START (70_reset R291, R290) -/

theorem test_start_decode :
    next (step (started (loaded .decode 1 4 4 [5, 5] []))) fun t =>
      t.phase = .litPrefix ∧ t.cur = 0 ∧ dictList t.dict 255 = seedList ∧ t.ctrlStart = false := by decide

/-- D1: an image of no pixels is done at once. -/
theorem test_start_empty_image :
    next (step (started (loaded .decode 1 0 5 [] []))) fun t => t.phase = .done ∧ t.bitPos = 0 := by decide

/-- START under an illegal configuration has no effect, also when the configuration is mended afterwards (60_exceptions R270);
after an accepted one no configuration write is accepted (70_reset R295). -/
theorem test_hostStart :
    (hostStart (loaded .decode 1 4 4 [5, 5] [])).phase = .litPrefix ∧
    next (hostWriteBpp 1 (hostStart (loaded .decode 2 4 4 [5, 5] []))) (fun t => next (step t) (fun u => u.phase = .idle)) ∧
    next (hostWriteBpp 1 (hostStart (loaded .decode 3 4 4 [5, 5] []))) (fun _ => true) = false := by decide

/-! ## Encoder (vectors E1, E5, E7, E8, E12) -/

/-- An encode pass in the main loop. -/
def encoding (w h : BitVec 16) (cur : Nat) (canvas : List Byte) : State := inLoop cur (loaded .encode 1 w h [] canvas)

/-- E1: a prefix byte. -/
theorem test_encode_prefix_byte :
    next (step (inPrefix 0 (loaded .encode 1 2 1 [] [18, 239]))) fun t => written t = ([18], 1, 0, 0) ∧ t.cur = 1 := by
  decide

/-- E8 at W = 2: CPREV, tried first, wins a tie at 6. -/
theorem test_best_first_of_equal :
    best (encoding 4 2 2 [6, 6, 6, 6, 6, 6, 6, 6]) = (some .cprev, 6) := by decide

/-- E12 at W = 9: CUPR, tried before CUPL, wins a tie at 2. -/
theorem test_best_right_before_left :
    best (encoding 4 3 9 [9, 9, 9, 9, 3, 4, 3, 4, 5, 3, 4, 6]) = (some .cupr, 2) := by decide

/-- E7 at W = 4 = L: CUP is admitted; its bits complete the stream with the padding. -/
theorem test_encode_cup :
    next (step (encoding 4 2 4 [1, 2, 3, 4, 1, 2, 3, 4])) fun t =>
      written t = ([0b11000000, 0b01000000], 2, 0, 0) ∧ t.phase = .done := by decide

/-- E5 at W = 2: a run of 1 is below the threshold; 4 stands in slot 4. -/
theorem test_encode_dic :
    next (step (encoding 1 6 2 [4, 4, 4, 7, 7, 4])) fun t =>
      written t = ([], 0, 0b00100, 5) ∧ t.cur = 3 ∧ dictList t.dict 4 = #v[4, 0, 1, 2, 3, 5, 6, 7] := by decide

/-- E6 at W = 2: 30 is in no fresh list. -/
theorem test_encode_lit :
    next (step (encoding 3 3 2 [10, 20, 30, 40, 50, 60, 70, 80, 90])) fun t =>
      written t = ([0b01000111], 1, 0b10, 2) ∧ t.cur = 3 ∧ dictList t.dict 20 = #v[30, 0, 1, 2, 3, 4, 5, 6] := by decide

/-! ## Witnesses: states and operands that meet the hypotheses of the obligations

`next o p = true` says that the outcome `o` is a next state t with `p t`. A witness gives one case for each clause of its
obligation, at the boundary of the clause where it has one. -/

/-- The lists at START hold distinct values. -/
theorem seedDict_distinct : dictDistinct seedDict := by
  intro r
  have h : dictList seedDict r = seedList := by simp [dictList, seedDict]
  rw [h]; decide

/-- The invariant of a state whose dictionary is the one at START, from checks that can be decided. -/
theorem inv_of_checks {s : State} (hd : s.dict = seedDict)
    (h : Memory.wf s.stream ∧ Memory.wf s.canvas ∧ Memory.wf s.out ∧ (s.phase = .fault ↔ s.faultCode ≠ .none) ∧
      (s.running = true → s.configLegal = true) ∧ s.cursorOk ∧ (s.running = true → s.cfgMode = .decode → s.readerOk) ∧
      (s.running = true → s.cfgMode = .encode → s.writerOk)) : s.Inv :=
  ⟨h.1, h.2.1, h.2.2.1, h.2.2.2.1, h.2.2.2.2.1, h.2.2.2.2.2.1, fun _ => hd ▸ seedDict_distinct, h.2.2.2.2.2.2.1,
    h.2.2.2.2.2.2.2⟩

/-- A decode pass of program 2 (4 by 4) in its prefix, after `RAW 1`. -/
def decodingPrefix : State := atByte 1 (inPrefix 1 (loaded .decode 1 4 4 [1, 0, 0xF8, 0x80] [1]))

/-- A decode pass of a 4 by 4 image in the main loop, before the byte `b`. -/
def decodingLoop (b : Byte) : State := atByte 2 (inLoop 2 (loaded .decode 1 4 4 [1, 0, b, 0x80] [1, 0]))

/-- An encode pass of a 4 by 2 image, before its prefix. -/
def encodingPrefix : State := inPrefix 0 (loaded .encode 1 4 2 [] [6, 6, 6, 6, 6, 6, 6, 6])

theorem decodingPrefix_inv : decodingPrefix.Inv := inv_of_checks rfl (by decide)

theorem decodingLoop_inv : (decodingLoop 0xF8).Inv := inv_of_checks rfl (by decide)

theorem encodingPrefix_inv : encodingPrefix.Inv := inv_of_checks rfl (by decide)

theorem encodingLoop_inv : (encoding 4 2 2 [1, 2, 3, 4, 1, 2, 3, 4]).Inv := inv_of_checks rfl (by decide)

theorem witness_DecodeInvertsEncode :
    WellFormed (.raw 255) ∧ WellFormed (.lit 0) ∧ WellFormed (.dic 7) ∧ WellFormed (.cprevV2 1) ∧ WellFormed (.cupV6 1) ∧
    WellFormed (.cuprV14 1) ∧ WellFormed (.cuplV30 1) ∧ WellFormed (.cprev2V62 0 0) := by decide

theorem witness_EncodeInvertsDecode :
    decode .operations [true, false, false, true, true] = .ok (.cprevV2 1, [true]) ∧
    decode .rawBytes (natBits 8 0x12) = .ok (.raw 0x12, []) := by decide

theorem witness_NoBitPatternIsIllegal : longestOp ≤ (List.replicate 66 true).length := by decide

theorem witness_NoEncodingIsPrefixOfAnother :
    WellFormed (.cprevV2 1) ∧ Instr.part (.cprevV2 1) = Instr.part (.cprevV2 1) ∧
    encode (.cprevV2 1) <+: encode (.cprevV2 1) := by decide

theorem witness_RunCountValues :
    Run.wellFormed (.v2 1) = true ∧ Run.wellFormed (.v6 1) = true ∧ Run.wellFormed (.v62 0 0) = true := by decide

theorem witness_VarintRoundTrip :
    0 < 2 ^ 32 ∧ 2 ^ 32 - 1 < 2 ^ 32 ∧ Run.wellFormed (.v14 5) = true ∧
    Run.v14 5 ≠ canonicalRun (runLen (.v14 5)).toNat ∧ Run.wellFormed (.v62 0 9) = true ∧
    Run.v62 0 9 ≠ canonicalRun (runLen (.v62 0 9)).toNat := by decide

theorem witness_PlacedWordRunsNext :
    decodeTableWord 8 0x12 = some (.raw 0x12) ∧ decodeTableWord 16 0b01_00011110 = some (.lit 30) ∧
    decodeTableWord 8 0b00_011 = some (.dic 3) ∧ decodeTableWord 8 0b1110_10 = some (.cuplV2 2) ∧
    next (step (State.reset.withFetchWord 8 0x12)) (fun t => t.canvasByte 0 = 0x12 ∧ t.opc = 0) ∧
    next (step (State.reset.withFetchWord 16 0b01_00011110)) (fun t => t.canvasByte 2 = 30 ∧ t.flag = 1) ∧
    next (step (State.reset.withFetchWord 8 0b1110_10)) (fun t => t.opc = 14 ∧ t.cur = 4) := by decide

theorem witness_RegisterReadIsBitPositionRead :
    (reader [0xA5, 0x3C, 0xF0, 0x0F] 1 2 1).readerOk ∧ (reader [0xA5, 0x3C, 0xF0, 0x0F] 4 0 0).readerOk ∧
    readResult 16 (reader [0xA5, 0x3C, 0xF0, 0x0F] 1 2 1) ≠ none ∧
    readResult 1 (reader [0xA5, 0x3C, 0xF0, 0x0F] 4 0 0) = none := by decide

theorem witness_TruncatedStreamExactly :
    (reader [0xA5] 1 2 1).readerOk ∧ readResult 2 (reader [0xA5] 1 2 1) ≠ none ∧
    readResult 3 (reader [0xA5] 1 2 1) = none ∧ (∀ n, ReadWidth n → n ≠ 5) ∧
    (∀ a < (reader [0xA5] 1 2 1).streamLen,
      ({ reader [0xA5] 1 2 1 with stream := [(0, 0xA5), (1, 9)] } : State).streamByte a =
        (reader [0xA5] 1 2 1).streamByte a) :=
  ⟨by decide, by decide, by decide, fun _ h e => absurd (e ▸ h) (by decide), by decide⟩

theorem witness_RefillsAreLazy :
    readResult 2 (reader [0xA5, 0x3C, 0xF0, 0x0F] 1 2 1) = some (1, 1, 0, 0) ∧
    readResult 16 (reader [0xA5, 0x3C, 0xF0, 0x0F] 1 1 1) ≠ none := by decide

theorem witness_WrittenFieldsReadBack :
    (∀ f ∈ [(5, 3), (0xB3F8, 16)], 1 ≤ f.2 ∧ f.2 ≤ 16) ∧ writer.wAcc = 0 ∧ writer.wCnt = 0 ∧ writer.olen = 0 ∧
    writer.out = [] ∧ (reader [0xB6, 0x7F, 0] 0 0 0).spos = 0 ∧
    (reader [0xB6, 0x7F, 0] 0 0 0).streamLen = (flush (writeFields [(5, 3), (0xB3F8, 16)] writer)).olen ∧
    (∀ a < (reader [0xB6, 0x7F, 0] 0 0 0).streamLen,
      Memory.read? (flush (writeFields [(5, 3), (0xB3F8, 16)] writer)).out a =
        some ((reader [0xB6, 0x7F, 0] 0 0 0).streamByte a)) := by decide

theorem witness_UpdateMovesToFront :
    (dictList seedDict 7).toList[0]? = some 0 ∧ (dictList seedDict 7).toList[7]? = some 7 ∧
    (∀ q < 7, (dictList seedDict 7).toList[q]? ≠ some 7) ∧ (200 : Byte) ∉ (dictList seedDict 7).toList ∧
    (8 : Byte) ≠ 7 := by decide

theorem witness_FindReturnsSmallestSlot :
    dictList (update seedDict 8 200) 7 = dictList seedDict 7 ∧ find seedDict 7 7 = some 7 ∧ find seedDict 7 8 = none := by
  decide

theorem witness_UpdateKeepsSlotsDistinct : dictDistinct seedDict ∧ lookup seedDict 7 3 = lookup seedDict 7 3 :=
  ⟨seedDict_distinct, rfl⟩

theorem witness_OnlyLitAndDicTouchDictionary :
    (∀ v, Instr.raw 9 ≠ .lit v) ∧ (∀ k, Instr.raw 9 ≠ .dic k) ∧ (∀ v, Instr.cupV2 2 ≠ .lit v) ∧
    (∀ k, Instr.cupV2 2 ≠ .dic k) ∧ next (exec (.raw 9) decodingPrefix) (fun _ => true) ∧
    next (exec (.cupV2 2) (decodingLoop 0xF8)) (fun _ => true) :=
  ⟨nofun, nofun, nofun, nofun, by decide, by decide⟩

/-- The three phases after RAW: PREFIX, LOOP, DONE. -/
theorem witness_RawWritesPrefixByte :
    let s := inPrefix 0 (loaded .decode 1 2 2 [] [])
    let t := inPrefix 1 (loaded .decode 1 2 2 [] [])
    let u := inPrefix 1 (loaded .decode 1 2 1 [] [])
    (s.phase = .litPrefix ∧ s.cfgMode = .decode ∧ s.cur + 1 < s.prefixBytes) ∧
    (t.phase = .litPrefix ∧ t.cfgMode = .decode ∧ t.cur < t.prefixBytes ∧ t.cur + 1 = t.prefixBytes ∧ t.cur + 1 < t.size) ∧
    (u.phase = .litPrefix ∧ u.cfgMode = .decode ∧ u.cur < u.prefixBytes ∧ u.cur + 1 = u.size) := by decide

/-- The last pixel of the canvas, the one before it, and a three byte pixel (LIT, DIC; also a run count of 0). -/
theorem witness_LitWritesByteAndUpdatesDictionary :
    let s := loop42 7 []
    let t := loop42 6 []
    let u := inLoop 3 (loaded .decode 3 2 1 [] [])
    (s.phase = .mainLoop ∧ s.cfgMode = .decode ∧ s.bpp ≤ s.cur ∧ s.cur < s.size ∧ s.size ≤ s.cur + s.bpp) ∧
    (t.phase = .mainLoop ∧ t.cfgMode = .decode ∧ t.bpp ≤ t.cur ∧ t.cur < t.size ∧ t.cur + t.bpp < t.size) ∧
    (u.phase = .mainLoop ∧ u.cfgMode = .decode ∧ u.bpp = u.cur ∧ u.cur < u.size) := by decide

theorem witness_DicWritesSlotAndUpdatesDictionary :
    let s := loop42 7 []
    let t := loop42 1 []
    (s.phase = .mainLoop ∧ s.cfgMode = .decode ∧ s.bpp ≤ s.cur ∧ s.cur < s.size ∧ s.size ≤ s.cur + s.bpp) ∧
    (t.phase = .mainLoop ∧ t.cfgMode = .decode ∧ t.bpp = t.cur ∧ t.cur < t.size ∧ t.cur + t.bpp < t.size) := by decide

theorem witness_CprevCopiesPreviousPixel :
    let s := loop42 2 [1, 2]
    s.phase = .mainLoop ∧ s.cfgMode = .decode ∧ s.bpp ≤ s.cur ∧ (loop42 1 [1]).bpp = (loop42 1 [1]).cur ∧
    s.cur + (runLen (.v2 3)).toNat * s.bpp < s.size ∧ s.cur + (runLen (.v6 3)).toNat * s.bpp = s.size ∧
    s.cur + (runLen (.v14 6)).toNat * s.bpp ≤ s.size ∧ s.cur + (runLen (.v30 6)).toNat * s.bpp ≤ s.size ∧
    s.cur + (runLen (.v62 0 6)).toNat * s.bpp ≤ s.size := by decide

/-- W = L - 1, W = L. -/
theorem witness_CupCopiesPreviousLine :
    let s := loop42 3 []
    let t := loop42 4 []
    (s.phase = .mainLoop ∧ s.cfgMode = .decode ∧ s.cur + (runLen (.v6 2)).toNat * s.bpp = s.size ∧ s.cur < s.lineBytes) ∧
    (t.phase = .mainLoop ∧ t.cfgMode = .decode ∧ t.cur + (runLen (.v2 3)).toNat * t.bpp < t.size ∧
      t.cur = t.lineBytes) := by decide

/-- W = L, W = L + 1. -/
theorem witness_CuprCopiesUpRight :
    let s := loop42 4 []
    let t := loop42 5 []
    (s.phase = .mainLoop ∧ s.cfgMode = .decode ∧ s.bpp ≤ s.cur ∧ s.cur + (runLen (.v6 1)).toNat * s.bpp = s.size ∧
      s.cur = s.lineBytes) ∧
    (t.phase = .mainLoop ∧ t.cfgMode = .decode ∧ t.bpp ≤ t.cur ∧ t.cur + (runLen (.v2 2)).toNat * t.bpp < t.size ∧
      t.cur = t.lineBytes + 1) := by decide

/-- W = L + P, W = L + P + 1. -/
theorem witness_CuplCopiesUpLeft :
    let s := loop42 5 []
    let t := loop42 6 []
    (s.phase = .mainLoop ∧ s.cfgMode = .decode ∧ s.cur + (runLen (.v2 3)).toNat * s.bpp = s.size ∧
      s.cur = s.lineBytes + s.bpp) ∧
    (t.phase = .mainLoop ∧ t.cfgMode = .decode ∧ t.cur + (runLen (.v2 1)).toNat * t.bpp < t.size ∧
      t.cur = t.lineBytes + t.bpp + 1) := by decide

/-- W = 2P - 1 (which no pass reaches), W = 2P. -/
theorem witness_Cprev2CopiesTwoBack :
    let s := loop42 1 []
    let t := loop42 2 []
    (s.phase = .mainLoop ∧ s.cfgMode = .decode ∧ s.cur + (runLen (.v6 4)).toNat * s.bpp = s.size ∧ s.cur < 2 * s.bpp) ∧
    (t.phase = .mainLoop ∧ t.cfgMode = .decode ∧ t.cur + (runLen (.v6 1)).toNat * t.bpp < t.size ∧
      t.cur = 2 * t.bpp) := by decide

/-- A run one pixel too long, and the longest run. -/
theorem witness_CopyOverrunTakesFault :
    let s := loop42 2 [5, 5]
    sourceOffset .cprev s.bpp s.lineBytes s.cur = some 1 ∧ s.size + 1 = s.cur + (runLen (.v6 4)).toNat * s.bpp ∧
    sourceOffset .cup s.bpp s.lineBytes s.cur = some 0 ∧ s.size < s.cur + (runLen (.v62 65535 65535)).toNat * s.bpp := by
  decide

/-- Three bytes per pixel; one pixel wide (d = 0); a period of one group, and the group onto itself. -/
theorem witness_CopyRepeatsPeriod :
    let s := inLoop 6 (loaded .decode 3 3 2 [] [])
    let t := inLoop 2 (loaded .decode 1 1 4 [] [])
    (s.configLegal = true ∧ 0 < s.size ∧ 2 * s.bpp ≤ s.cur ∧ s.cur % s.bpp = 0) ∧
    (t.configLegal = true ∧ 0 < t.size ∧ 2 * t.bpp ≤ t.cur ∧ t.cur % t.bpp = 0 ∧
      sourceOffset .cupr t.bpp t.lineBytes t.cur = some t.cur) ∧
    (1 < 2 ∧ 0 < 50) ∧ (3 + 3 ≤ 6 ∨ 3 = 6) ∧ (6 + 3 ≤ 6 ∨ 6 = 6) := by decide

theorem witness_ZeroLengthCopyDoesNothing :
    let s := loop42 7 []
    s.phase = .mainLoop ∧ s.cfgMode = .decode ∧ s.bpp ≤ s.cur ∧ s.cur < s.size := by decide

theorem witness_LitAndDicWriteOneByte :
    (loop42 2 [1, 2]).cfgMode = .decode ∧ next (exec (.lit 9) (loop42 2 [1, 2])) (fun _ => true) ∧
    next (exec (.dic 7) (loop42 2 [1, 2])) (fun _ => true) := by decide

/-- RAW; a copy that fits, and one that does not. -/
theorem witness_RawAndCopiesWriteOnlyTheirBytes :
    decodingPrefix.cfgMode = .decode ∧ next (exec (.raw 9) decodingPrefix) (fun _ => true) ∧
    (loop42 2 [1, 2]).cfgMode = .decode ∧ next (exec (.cupV6 3) (loop42 2 [1, 2])) (fun t => t.phase = .done) ∧
    next (exec (.cupV6 4) (loop42 2 [1, 2])) (fun t => t.phase = .fault) := by decide

/-- U9: `CUPR 2` in a 1 by 4 image. -/
theorem witness_OnePixelWideUpRightKeepsCanvas :
    let s := inLoop 2 (loaded .decode 1 1 4 [] [1, 2])
    s.phase = .mainLoop ∧ s.cfgMode = .decode ∧ s.configLegal = true ∧ s.cfgWidth = 1 ∧ 2 * s.bpp ≤ s.cur ∧
    s.cur + (runLen (.v2 2)).toNat * s.bpp ≤ s.size := by decide

/-- RAW in the prefix; LIT, DIC and a copy in the loop. -/
theorem witness_StepRunsDecodedInstruction :
    (decodingPrefix.running = true ∧ decodingPrefix.unfinished = true ∧ decodingPrefix.cfgMode = .decode ∧
      decodingPrefix.readerOk ∧
      decode decodingPrefix.part decodingPrefix.remainingBits = .ok (.raw 0, bytesToBits [0xF8, 0x80])) ∧
    (∀ b : Byte, b = 0xF8 ∨ b = 0x47 ∨ b = 0x18 →
      (decodingLoop b).running = true ∧ (decodingLoop b).unfinished = true ∧ (decodingLoop b).cfgMode = .decode) ∧
    (decodingLoop 0xF8).readerOk ∧ (decodingLoop 0x47).readerOk ∧ (decodingLoop 0x18).readerOk ∧
    decode (decodingLoop 0xF8).part (decodingLoop 0xF8).remainingBits =
      .ok (.cprev2V2 2, natBits 2 0 ++ bytesToBits [0x80]) ∧
    decode (decodingLoop 0x47).part (decodingLoop 0x47).remainingBits = .ok (.lit 30, natBits 6 0) ∧
    decode (decodingLoop 0x18).part (decodingLoop 0x18).remainingBits = .ok (.dic 3, natBits 3 0 ++ bytesToBits [0x80]) := by
  refine ⟨by decide, ?_, by decide, by decide, by decide, by decide, by decide, by decide⟩
  rintro b (rfl | rfl | rfl) <;> decide

/-- F3, and F2 in the prefix. -/
theorem witness_TruncatedOperationTakesFault :
    let s := atByte 2 (inLoop 2 (loaded .decode 1 4 4 [5, 5, 0x80] [5, 5]))
    let t := atByte 1 (inPrefix 1 (loaded .decode 1 4 4 [1] [1]))
    (s.running = true ∧ s.unfinished = true ∧ s.cfgMode = .decode ∧ s.readerOk ∧
      decodePart listSource s.part s.remainingBits = .error []) ∧
    (t.running = true ∧ t.unfinished = true ∧ t.cfgMode = .decode ∧ t.readerOk ∧
      decodePart listSource t.part t.remainingBits = .error []) := by
  refine ⟨⟨by decide, by decide, by decide, by decide, rfl⟩, by decide, by decide, by decide, by decide, rfl⟩

theorem witness_FaultingStepKeepsCanvasAndDictionary :
    let s := atByte 2 (inLoop 2 (loaded .decode 1 4 4 [5, 5, 0x80] [5, 5]))
    let t := atByte 2 (inLoop 2 (loaded .decode 1 4 4 [5, 5, 0x8C] [5, 5]))
    s.running = true ∧ next (step s) (fun u => u.phase = .fault ∧ u.faultCode = .truncatedStream) ∧
    t.running = true ∧ next (step t) (fun u => u.phase = .fault ∧ u.faultCode = .canvasOverrun) := by decide

theorem witness_EndedPassWaitsForStart :
    State.reset.running = false ∧ State.reset.ctrlStart = false ∧
    (raise .truncatedStream State.reset).running = false ∧ (raise .truncatedStream State.reset).ctrlStart = false := by
  decide

theorem witness_StartBeginsDecodePass :
    (loaded .decode 1 4 4 [5] []).running = false ∧ (loaded .decode 1 4 4 [5] []).configLegal = true ∧
    (loaded .decode 1 4 4 [5] []).cfgMode = .decode ∧ (started (loaded .decode 1 4 4 [5] [])).ctrlStart = true ∧
    (loaded .decode 3 0 5 [] []).configLegal = true ∧ (loaded .decode 3 0 5 [] []).cfgWidth = 0 := by decide

theorem witness_StartBeginsEncodePass :
    (loaded .encode 3 1 1 [] [7, 8, 9]).running = false ∧ (loaded .encode 3 1 1 [] [7, 8, 9]).configLegal = true ∧
    (loaded .encode 3 1 1 [] [7, 8, 9]).cfgMode = .encode ∧
    (started (loaded .encode 3 1 1 [] [7, 8, 9])).ctrlStart = true ∧
    (loaded .encode 1 5 0 [] []).configLegal = true ∧ (loaded .encode 1 5 0 [] []).cfgHeight = 0 := by decide

theorem witness_RefusedStartHasNoEffect :
    (loaded .decode 0 4 4 [] []).running = false ∧ (loaded .decode 0 4 4 [] []).cfgBpp = 0 ∧
    (loaded .decode 0 4 4 [] []).ctrlStart = false ∧ (started (loaded .encode 2 4 4 [] [])).running = false ∧
    (started (loaded .encode 2 4 4 [] [])).cfgBpp = 2 ∧ decodingPrefix.running = true := by decide

/-- Each place of the phase diagram that a step reaches: waiting, START (to PREFIX and to DONE); from PREFIX to itself, LOOP,
DONE and FAULT; from LOOP to itself, DONE and FAULT. -/
theorem witness_PhaseMovesOnlyAsAllowed :
    next (step State.reset) (fun t => t.phase = .idle) ∧
    next (step (started (loaded .decode 1 1 1 [] []))) (fun t => t.phase = .litPrefix) ∧
    next (step (started (loaded .decode 1 0 1 [] []))) (fun t => t.phase = .done) ∧
    next (step encodingPrefix) (fun t => t.phase = .litPrefix) ∧
    next (step decodingPrefix) (fun t => t.phase = .mainLoop) ∧
    next (step (inPrefix 0 (loaded .decode 1 1 1 [7] []))) (fun t => t.phase = .done) ∧
    next (step (inPrefix 0 (loaded .decode 1 1 1 [] []))) (fun t => t.phase = .fault) ∧
    next (step (decodingLoop 0xF8)) (fun t => t.phase = .mainLoop) ∧
    next (step (decodingLoop 0x8B)) (fun t => t.phase = .done) ∧
    next (step (decodingLoop 0x8C)) (fun t => t.phase = .fault) := by decide

theorem witness_NoStepWritesConfigurationOrStream :
    next (step (decodingLoop 0x8B)) (fun _ => true) ∧ next (step encodingPrefix) (fun _ => true) := by decide

theorem witness_EnginesKeepToTheirMemories :
    (decodingLoop 0x8B).running = true ∧ (decodingLoop 0x8B).cfgMode = .decode ∧
    next (step (decodingLoop 0x8B)) (fun _ => true) ∧ encodingPrefix.running = true ∧ encodingPrefix.cfgMode = .encode ∧
    next (step encodingPrefix) (fun _ => true) := by decide

theorem witness_CursorNeverDecreases :
    (decodingLoop 0x8B).Inv ∧ (decodingLoop 0x8B).running = true ∧
    next (step (decodingLoop 0x8B)) (fun t => t.phase = .done) = true :=
  ⟨inv_of_checks rfl (by decide), by decide, by decide⟩

/-- A running pass of each engine in each phase, and a state without a pass. -/
theorem witness_StepKeepsInv :
    (decodingPrefix.Inv ∧ next (step decodingPrefix) (fun _ => true) = true) ∧
    ((decodingLoop 0xF8).Inv ∧ next (step (decodingLoop 0xF8)) (fun _ => true) = true) ∧
    (encodingPrefix.Inv ∧ next (step encodingPrefix) (fun _ => true) = true) ∧
    ((encoding 4 2 2 [1, 2, 3, 4, 1, 2, 3, 4]).Inv ∧
      next (step (encoding 4 2 2 [1, 2, 3, 4, 1, 2, 3, 4])) (fun _ => true) = true) :=
  ⟨⟨decodingPrefix_inv, by decide⟩, ⟨decodingLoop_inv, by decide⟩, ⟨encodingPrefix_inv, by decide⟩,
    ⟨encodingLoop_inv, by decide⟩⟩

theorem witness_InvStepsNeverStop :
    decodingPrefix.Inv ∧ (decodingLoop 0xF8).Inv ∧ encodingPrefix.Inv ∧ (encoding 4 2 2 [1, 2, 3, 4, 1, 2, 3, 4]).Inv :=
  ⟨decodingPrefix_inv, decodingLoop_inv, encodingPrefix_inv, encodingLoop_inv⟩

/-- A waiting machine, to which every host write is accepted, and what a fill leaves. -/
theorem witness_HostWritesKeepInv :
    let s := { State.reset with dict := seedDict }
    s.Inv ∧ next (hostWriteWidth 65535 s) (fun _ => true) = true ∧ next (hostWriteHeight 0 s) (fun _ => true) = true ∧
    next (hostWriteBpp 2 s) (fun _ => true) = true ∧ next (hostWriteMode .encode s) (fun _ => true) = true ∧
    next (hostWriteSlen 4 s) (fun _ => true) = true ∧ next (hostFillStream 0 [1, 2] s) (fun _ => true) = true ∧
    next (hostFillCanvas 7 [1] s) (fun _ => true) = true ∧ (hostStart s).running = false ∧
    s.busy = false ∧ ([1, 2] : List Byte)[1]? = some 2 ∧
    next (hostFillStream 5 [1, 2] s) (fun t => t.streamByte 5 = 1 ∧ t.streamByte 6 = 2) = true :=
  ⟨inv_of_checks rfl (by decide), by decide⟩

/-- A finished pass of each engine whose configuration the host rewrites; a faulted pass; a running pass. -/
theorem witness_HostSeesResultOnlyAtDone :
    let d : State := { loaded .decode 1 2 1 [] [18, 239] with phase := .done }
    let e : State := { loaded .encode 1 2 1 [] [18, 239] with phase := .done, olen := 2, out := [(0, 18), (1, 239)] }
    let f : State := { loaded .decode 1 2 1 [] [18, 239] with phase := .fault, faultCode := .truncatedStream, cur := 1 }
    d.phase = .done ∧ d.busy = false ∧ next (hostWriteMode .encode d) (fun t => hostReadCanvas 1 t = 239) ∧
    next (hostWriteWidth 9 d) (fun t => hostReadCanvas 1 t = 239 ∧ hostReadWidth t = 9) ∧
    next (hostWriteMode .decode e) (fun t => hostReadOut 1 t = some 239 ∧ hostReadOlen t = 2) ∧
    f.phase = .fault ∧ f.busy = false ∧ hostReadCur f = 1 ∧ decodingPrefix.running = true := by decide

theorem witness_RegisterWidthsSuffice :
    (decodingPrefix.Inv ∧ decodingPrefix.running = true ∧ decodingPrefix.cfgMode = .decode) ∧
    (encodingPrefix.Inv ∧ encodingPrefix.running = true) :=
  ⟨⟨decodingPrefix_inv, by decide, rfl⟩, encodingPrefix_inv, by decide⟩

theorem witness_DecodePassEnds :
    (decodingPrefix.Inv ∧ decodingPrefix.running = true ∧ decodingPrefix.cfgMode = .decode) ∧
    ((decodingLoop 0xF8).Inv ∧ (decodingLoop 0xF8).running = true ∧ (decodingLoop 0xF8).cfgMode = .decode) :=
  ⟨⟨decodingPrefix_inv, by decide, rfl⟩, decodingLoop_inv, by decide, rfl⟩

theorem witness_EncodePassEnds :
    encodingPrefix.Inv ∧ encodingPrefix.running = true ∧ encodingPrefix.cfgMode = .encode :=
  ⟨encodingPrefix_inv, by decide, rfl⟩

/-- E7 at W = 4 (a copy), E5 at W = 2 (DIC) and E6 at W = 2 (LIT), E16 at its first loop position (three bytes per pixel), and
a prefix byte; each end of the LOOP step. -/
theorem witness_EncoderEmitsEncodings :
    let c := encoding 4 2 4 [1, 2, 3, 4, 1, 2, 3, 4]
    let k := encoding 1 6 2 [4, 4, 4, 7, 7, 4]
    let l := encoding 3 3 2 [10, 20, 30, 40, 50, 60, 70, 80, 90]
    let m := inLoop 6 (loaded .encode 3 2 2 [] [1, 2, 3, 4, 5, 6, 7, 8, 9, 7, 8, 9])
    (1 < 2 ^ 32 ∧ 0 < 8 ∧ 7 < 8) ∧
    (c.cfgMode = .encode ∧ c.phase = .mainLoop ∧ c.bpp ≤ c.cur ∧ c.cur < c.size ∧ best c = (some .cup, 4)) ∧
    (k.cfgMode = .encode ∧ k.phase = .mainLoop ∧ k.bpp ≤ k.cur ∧ k.cur < k.size ∧ (best k).2 = 1 ∧
      find k.dict 4 4 = some 4) ∧
    (l.cfgMode = .encode ∧ l.phase = .mainLoop ∧ l.bpp ≤ l.cur ∧ l.cur < l.size ∧ (best l).2 = 0 ∧
      find l.dict 20 30 = none) ∧
    (m.cfgMode = .encode ∧ m.phase = .mainLoop ∧ m.bpp ≤ m.cur ∧ m.cur < m.size ∧ (best m).2 < 2) ∧
    (encodingPrefix.cfgMode = .encode ∧ encodingPrefix.phase = .litPrefix ∧
      encodingPrefix.cur < encodingPrefix.prefixBytes) := by decide

/-- Row 1 of a 3 by 2 image with three bytes per pixel, at W = L, and one pixel wide; CUPL is not admitted at either. -/
theorem witness_AdmissionIsAsTheTable :
    let s := inLoop 9 (loaded .encode 3 3 2 [] [])
    let t := inLoop 2 (loaded .encode 1 1 4 [] [])
    (s.configLegal = true ∧ s.cur < s.size ∧ 2 * s.bpp ≤ s.cur ∧ s.cur = s.lineBytes) ∧
    (t.configLegal = true ∧ t.cur < t.size ∧ 2 * t.bpp = t.cur ∧ t.cfgWidth = 1) ∧
    admitted .cup s.bpp s.lineBytes s.cur = true ∧ admitted .cupr s.bpp s.lineBytes s.cur = false ∧
    admitted .cupl t.bpp t.lineBytes t.cur = false := by decide

/-- E12 at W = 9: a run that a differing group ends, and one (E7 at W = 4) that the end of the canvas ends. -/
theorem witness_CandidateRunIsMaximal :
    let s := encoding 4 3 9 [9, 9, 9, 9, 3, 4, 3, 4, 5, 3, 4, 6]
    let t := encoding 4 2 4 [1, 2, 3, 4, 1, 2, 3, 4]
    (s.configLegal = true ∧ s.cur ≤ s.size ∧ admitted .cupl s.bpp s.lineBytes s.cur = true ∧
      sourceOffset .cupl s.bpp s.lineBytes s.cur = some 4 ∧ s.cur + (candidateRun s .cupl + 1) * s.bpp ≤ s.size) ∧
    (t.configLegal = true ∧ t.cur ≤ t.size ∧ admitted .cup t.bpp t.lineBytes t.cur = true ∧
      sourceOffset .cup t.bpp t.lineBytes t.cur = some 0 ∧ t.size < t.cur + (candidateRun t .cup + 1) * t.bpp) := by decide

theorem witness_BestIsFirstLongestCandidate :
    (best (encoding 4 3 9 [9, 9, 9, 9, 3, 4, 3, 4, 5, 3, 4, 6])).1 = some .cupr ∧
    CopyOp.cup.opcode.toNat < CopyOp.cupr.opcode.toNat ∧ (best (encoding 3 1 2 [10, 20, 30])).1 = none := by decide

/-- A run of period 1 over a canvas that agrees below W only. -/
theorem witness_MatchedRunIsReproduced :
    (∀ a < 2, canvasAt [(0, 9), (1, 9)] a = canvasAt [(0, 9), (1, 9), (2, 9), (3, 9)] a) ∧
    (∀ j < 2, canvasAt [(0, 9), (1, 9), (2, 9), (3, 9)] (1 + j) = canvasAt [(0, 9), (1, 9), (2, 9), (3, 9)] (2 + j)) := by
  decide

/-- E1 in the prefix; E7 at W = 2, where `DIC 3` is emitted and read; and E16, three bytes per pixel, with a decoder canvas
that agrees at byte 0 of each group only. -/
theorem witness_DecoderMirrorsEncoderStep :
    (let e := inPrefix 0 (loaded .encode 1 2 1 [] [18, 239])
     let d := inPrefix 0 (loaded .decode 1 2 1 [18, 239] [])
     e.Inv ∧ e.running = true ∧ e.cfgMode = .encode ∧ next (step e) (fun _ => true) = true ∧ d.Inv ∧
       Mirrors e d ∧ d.remainingBits = encode (.raw 18) ++ bytesToBits [239]) ∧
    (let e := encoding 4 2 2 [1, 2, 3, 4, 1, 2, 3, 4]
     let d := atByte 2 (inLoop 2 (loaded .decode 1 4 2 [1, 2, 0x19, 0x30, 0x10] [1, 2]))
     e.Inv ∧ e.running = true ∧ e.cfgMode = .encode ∧ next (step e) (fun _ => true) = true ∧ d.Inv ∧
       Mirrors e d ∧ d.remainingBits = encode (.dic 3) ++ (natBits 3 1 ++ bytesToBits [0x30, 0x10])) ∧
    (let e := inLoop 6 (loaded .encode 3 2 2 [] [1, 2, 3, 4, 5, 6, 7, 8, 9, 7, 8, 9])
     let d := atByte 6 (inLoop 6 (loaded .decode 3 2 2 [1, 2, 3, 4, 5, 6, 0x39, 0xC0] [1, 99, 99, 4, 99, 99]))
     e.Inv ∧ e.running = true ∧ e.cfgMode = .encode ∧ next (step e) (fun _ => true) = true ∧ d.Inv ∧
       Mirrors e d ∧ d.remainingBits = encode (.dic 7) ++ (natBits 3 1 ++ bytesToBits [0xC0])) :=
  ⟨⟨inv_of_checks rfl (by decide), by decide, rfl, by decide, inv_of_checks rfl (by decide),
      ⟨rfl, rfl, rfl, rfl, rfl, rfl, rfl, rfl, by decide⟩, by decide⟩,
    ⟨inv_of_checks rfl (by decide), by decide, rfl, by decide, inv_of_checks rfl (by decide),
      ⟨rfl, rfl, rfl, rfl, rfl, rfl, rfl, rfl, by decide⟩, by decide⟩,
    ⟨inv_of_checks rfl (by decide), by decide, rfl, by decide, inv_of_checks rfl (by decide),
      ⟨rfl, rfl, rfl, rfl, rfl, rfl, rfl, rfl, by decide⟩, by decide⟩⟩

/-- E1: the encode pass, and a decode pass over its output. -/
theorem witness_RoundTripOneBytePerPixel :
    let e := started (loaded .encode 1 2 1 [] [18, 239])
    let d := started (loaded .decode 1 2 1 [18, 239] [])
    e.starting ∧ e.cfgMode = .encode ∧ e.cfgBpp = 1 ∧ next (steps 3 e) (fun t =>
      t.phase = .done ∧ d.streamLen = t.olen ∧ ∀ a < t.olen, Memory.read? t.out a = some (d.streamByte a)) ∧
    d.starting ∧ d.cfgMode = .decode ∧ d.cfgBpp = 1 ∧ d.cfgWidth = e.cfgWidth ∧ d.cfgHeight = e.cfgHeight := by decide

/-- E15, three bytes per pixel: the encode pass, and a decode pass over its output. -/
theorem witness_EveryRoundTripKeepsFirstBytes :
    let e := started (loaded .encode 3 1 1 [] [7, 8, 9])
    let d := started (loaded .decode 3 1 1 [7, 8, 9] [])
    e.starting ∧ e.cfgMode = .encode ∧ next (steps 4 e) (fun t =>
      t.phase = .done ∧ d.streamLen = t.olen ∧ ∀ a < t.olen, Memory.read? t.out a = some (d.streamByte a)) ∧
    d.starting ∧ d.cfgMode = .decode ∧ d.cfgBpp = e.cfgBpp ∧ d.cfgWidth = e.cfgWidth ∧ d.cfgHeight = e.cfgHeight := by
  decide

/-- SIZE = 2P for three and for one byte per pixel. -/
theorem witness_EncoderOutputIsBounded :
    let e := started (loaded .encode 3 2 1 [] [1, 2, 3, 4, 5, 6])
    let u := started (loaded .encode 1 2 1 [] [18, 239])
    (e.starting ∧ e.cfgMode = .encode ∧ next (steps 7 e) (fun t => t.phase = .done) ∧ 2 * e.bpp ≤ e.size) ∧
    (u.starting ∧ u.cfgMode = .encode ∧ next (steps 3 u) (fun t => t.phase = .done) ∧ u.cfgBpp = 1 ∧ 2 ≤ u.pixels) := by
  decide

theorem witness_DecodedImageIgnoresOldCanvas :
    let s := started (loaded .decode 1 2 1 [18, 239] [])
    s.starting ∧ s.cfgMode = .decode ∧ s.cfgBpp = 1 ∧ 2 ≤ s.cfgWidth.toNat ∧
    next (steps 1 s) (fun t => t.phase = .litPrefix) ∧ next (steps 3 s) (fun t => t.phase = .done) := by decide

end Sys2Proof.Tests
end

section
/-! SUPPORT. What reading an operation from a source can do to the source, and which operation it gives. -/

namespace Sys2Proof

/-- The source after a read satisfies `P`, whether the read succeeded or ran out of bits. -/
def Reading.Keeps {σ α : Type} (P : σ → Prop) (r : Reading σ α) : Prop :=
  match r with
  | .ok (_, s) => P s
  | .error s => P s

/-- Every access of the decoder to a source keeps `P`. -/
structure BitSource.Keeps {σ : Type} (src : BitSource σ) (P : σ → Prop) : Prop where
  read : ∀ n h s, P s → Reading.Keeps P (src.read n h s)
  setOpc : ∀ c s, P s → P (src.setOpc c s)
  setFlag : ∀ f s, P s → P (src.setFlag f s)

theorem Reading.Keeps.andThen {σ α β : Type} {P : σ → Prop} {r : Reading σ α} {k : α → σ → Reading σ β}
    (hr : Reading.Keeps P r) (hk : ∀ a s, P s → Reading.Keeps P (k a s)) : Reading.Keeps P (r.andThen k) := by
  match r, hr with
  | .ok (a, s), hr => exact hk a s hr
  | .error _, hr => exact hr

section
variable {σ : Type} {src : BitSource σ} {P : σ → Prop}

theorem decodeRun_keeps (h : src.Keeps P) {s : σ} (hs : P s) : Reading.Keeps P (decodeRun src s) := by
  refine (h.read 2 _ s hs).andThen fun a s hs => ?_
  split
  · exact hs
  refine (h.read 4 _ s hs).andThen fun b s hs => ?_
  split
  · exact hs
  refine (h.read 8 _ s hs).andThen fun c s hs => ?_
  split
  · exact hs
  refine (h.read 16 _ s hs).andThen fun d s hs => ?_
  split
  · exact hs
  exact (h.read 16 _ s hs).andThen fun _ s hs => (h.read 16 _ s hs).andThen fun _ _ hs => hs

theorem decodeCopy_keeps (h : src.Keeps P) (op : CopyOp) {s : σ} (hs : P s) :
    Reading.Keeps P (decodeCopy src op s) :=
  (decodeRun_keeps h (h.setOpc _ s hs)).andThen fun _ _ hs => hs

theorem decodeOp_keeps (h : src.Keeps P) {s : σ} (hs : P s) : Reading.Keeps P (decodeOp src s) := by
  refine (h.read 1 _ s hs).andThen fun b s hs => ?_
  split
  · refine (h.read 1 _ _ (h.setOpc 0 s hs)).andThen fun f s hs => ?_
    dsimp only
    split
    · exact (h.read 8 _ _ (h.setFlag f s hs)).andThen fun _ _ hs => hs
    · exact (h.read 3 _ _ (h.setFlag f s hs)).andThen fun _ _ hs => hs
  · refine (h.read 1 _ s hs).andThen fun b s hs => ?_
    split
    · exact decodeCopy_keeps h .cprev hs
    · exact (h.read 2 _ s hs).andThen fun t _ hs => decodeCopy_keeps h (longCopyOp t) hs

/-- What every access of the decoder keeps, decoding an operation keeps. -/
theorem decodePart_keeps (h : src.Keeps P) (part : StreamPart) {s : σ} (hs : P s) :
    Reading.Keeps P (decodePart src part s) := by
  cases part with
  | rawBytes => exact (h.read 8 _ s hs).andThen fun _ _ hs => hs
  | operations => exact decodeOp_keeps h hs

theorem decodeRaw_ok {s t : σ} {i : Instr} (h : decodeRaw src s = .ok (i, t)) : ∃ v, i = .raw v := by
  obtain ⟨v, u, _, h⟩ := Reading.andThen_eq_ok h
  cases h
  exact ⟨v, rfl⟩

theorem decodeCopy_ok {op : CopyOp} {s t : σ} {i : Instr} (h : decodeCopy src op s = .ok (i, t)) :
    ∃ r, i = .copy op r := by
  obtain ⟨r, u, _, h⟩ := Reading.andThen_eq_ok h
  cases h
  exact ⟨r, rfl⟩

/-- The main loop reads a LIT, a DIC or a copy (43_decoder_ops R184). -/
theorem decodeOp_ok {s t : σ} {i : Instr} (h : decodeOp src s = .ok (i, t)) :
    (∃ v, i = .lit v) ∨ (∃ k, i = .dic k) ∨ ∃ op r, i = .copy op r := by
  obtain ⟨b, s, _, h⟩ := Reading.andThen_eq_ok h
  split at h
  · obtain ⟨f, s, _, h⟩ := Reading.andThen_eq_ok h
    dsimp only at h
    split at h <;> obtain ⟨v, s, _, h⟩ := Reading.andThen_eq_ok h <;> cases h
    · exact .inl ⟨v, rfl⟩
    · exact .inr (.inl ⟨v, rfl⟩)
  · obtain ⟨b, s, _, h⟩ := Reading.andThen_eq_ok h
    split at h
    · exact .inr (.inr ⟨_, decodeCopy_ok h⟩)
    · obtain ⟨t, s, _, h⟩ := Reading.andThen_eq_ok h
      exact .inr (.inr ⟨_, decodeCopy_ok h⟩)

end

end Sys2Proof

namespace Sys2Proof.Machine

/-- Every copy instruction runs the common copy procedure on its run count (43_decoder_ops R187). -/
theorem exec_copy (op : CopyOp) (r : Run) (s : State) : exec (.copy op r) s = copyRun op (runLen r) s := by
  cases op <;> cases r <;> rfl

end Sys2Proof.Machine
end

section
/-! SUPPORT. The Bit Reader's registers after a read (10_state R26, 40_bit_primitives R121). -/

namespace Sys2Proof.Machine

/-- The low bits of an accumulator, at most eight and no more than it holds, are those of the stream byte before `spos`. -/
def AccHolds (s : State) (acc cnt spos : Nat) : Prop :=
  ∀ k ≤ 8, k ≤ cnt → acc % 2 ^ k = (s.streamByte (spos - 1)).toNat % 2 ^ k

theorem AccHolds.merge (s : State) (acc cnt spos : Nat) :
    AccHolds s (acc <<< 8 ||| (s.streamByte spos).toNat) cnt (spos + 1) := by
  intro k hk _
  have hz : acc <<< 8 % 2 ^ k = 0 := by
    rw [Nat.shiftLeft_eq]
    exact Nat.mod_eq_zero_of_dvd ((Nat.pow_dvd_pow 2 hk).mul_left acc)
  rw [Nat.or_mod_two_pow, hz, Nat.zero_or, Nat.add_sub_cancel]

/-- What the refill loop can do: it fetches whole bytes in order, stops within eight bits of what is asked for, and the bits
it fetched last stand lowest in the accumulator. -/
theorem refill_spec (s : State) (n : Nat) {fuel acc cnt spos acc' cnt' spos' : Nat}
    (h : refill s n fuel acc cnt spos = (acc', cnt', spos')) (hacc : AccHolds s acc cnt spos) :
    cnt' + 8 * spos = cnt + 8 * spos' ∧ spos ≤ spos' ∧ cnt' ≤ max cnt (n + 7) ∧ AccHolds s acc' cnt' spos' := by
  induction fuel generalizing acc cnt spos with
  | zero => cases h; exact ⟨rfl, le_rfl, by omega, hacc⟩
  | succ fuel ih =>
    rw [refill] at h
    split at h
    · obtain ⟨hbits, hpos, hcnt, hacc'⟩ := ih h (.merge s acc _ spos)
      exact ⟨by omega, by omega, by omega, hacc'⟩
    · cases h; exact ⟨rfl, le_rfl, by omega, hacc⟩

/-- A read keeps the Bit Reader invariant (10_state R26). -/
theorem takeBits_readerOk {n : Nat} {s t : State} {v : BitVec n} (h : s.readerOk) (e : takeBits n s = .ok (v, t)) :
    t.readerOk := by
  obtain ⟨hpos, hcnt, hbuf⟩ := h
  have hc := s.bitCnt.isLt
  have hacc : AccHolds s s.bitBuf.toNat s.bitCnt.toNat s.spos := fun k _ hk => by
    rw [hbuf, Nat.mod_mod_of_dvd _ (Nat.pow_dvd_pow 2 hk)]
  unfold takeBits at e
  split at e
  · cases e
  · generalize hr : refill s n n s.bitBuf.toNat s.bitCnt.toNat s.spos = r at e
    obtain ⟨acc, cnt, spos⟩ := r
    obtain ⟨hbits, hpos', hcnt', hacc'⟩ := refill_spec s n hr hacc
    cases e
    have hleft : (BitVec.ofNat 3 (cnt - n)).toNat = cnt - n := by rw [BitVec.toNat_ofNat]; omega
    refine ⟨?_, ?_, ?_⟩
    · change spos ≤ s.streamLen; omega
    · change (BitVec.ofNat 3 (cnt - n)).toNat ≤ 8 * spos; omega
    · change (BitVec.ofNat 7 (acc % 2 ^ (cnt - n))).toNat =
        (s.streamByte (spos - 1)).toNat % 2 ^ (BitVec.ofNat 3 (cnt - n)).toNat
      have hlow : acc % 2 ^ (cnt - n) < 2 ^ 7 :=
        (Nat.mod_lt _ (by positivity)).trans_le (Nat.pow_le_pow_right (by decide) (by omega))
      rw [hleft, BitVec.toNat_ofNat, Nat.mod_eq_of_lt hlow, hacc' _ (by omega) (by omega)]

end Sys2Proof.Machine
end

section
/-! SUPPORT. What fetching an operation can do to the state, and which operation it gives. -/

namespace Sys2Proof.Machine

/-- `t` is `s` after some reads of the Bit Reader: nothing but its registers, OPC and FLAG differs, and the invariant is kept. -/
structure Fetches (s t : State) : Prop where
  frame : ∃ p c b o f, t = { s with spos := p, bitCnt := c, bitBuf := b, opc := o, flag := f }
  keepsInv : s.Inv → t.Inv

theorem Fetches.refl (s : State) : Fetches s s := ⟨⟨_, _, _, _, _, rfl⟩, id⟩

theorem Fetches.trans {s t u : State} (h : Fetches s t) (h' : Fetches t u) : Fetches s u := by
  obtain ⟨⟨p, c, b, o, f, rfl⟩, hinv⟩ := h
  obtain ⟨⟨p, c, b, o, f, rfl⟩, hinv'⟩ := h'
  exact ⟨⟨p, c, b, o, f, rfl⟩, hinv' ∘ hinv⟩

theorem takeBits_fetches {n : Nat} {s t : State} {v : BitVec n} (e : takeBits n s = .ok (v, t)) : Fetches s t := by
  rcases takeBits_cases n s with ⟨_, e'⟩ | ⟨_, v', p, c, b, e'⟩
  · cases e.symm.trans e'
  · have ht : t = { s with spos := p, bitCnt := c, bitBuf := b } := by cases e.symm.trans e'; rfl
    refine ⟨⟨p, c, b, s.opc, s.flag, ht⟩, fun h => ?_⟩
    have hreader (hrun : s.running = true) (hmode : s.cfgMode = .decode) : t.readerOk :=
      takeBits_readerOk (h.reader hrun hmode) e
    subst ht
    exact { h with reader := hreader }

theorem readerSource_keeps_fetches (s : State) : readerSource.Keeps (Fetches s) where
  read n _ t h := by
    change Reading.Keeps (Fetches s) (takeBits n t)
    match e : takeBits n t with
    | .ok (v, u) => exact h.trans (takeBits_fetches e)
    | .error u =>
      rcases takeBits_cases n t with ⟨_, e'⟩ | ⟨_, _, _, _, _, e'⟩
      · cases e.symm.trans e'; exact h
      · cases e.symm.trans e'
  setOpc c t h := h.trans ⟨⟨_, _, _, _, _, rfl⟩, fun i => { i with }⟩
  setFlag f t h := h.trans ⟨⟨_, _, _, _, _, rfl⟩, fun i => { i with }⟩

theorem fetch_keeps (s : State) : Reading.Keeps (Fetches s) (fetch s) :=
  decodePart_keeps (readerSource_keeps_fetches s) s.part (.refl s)

theorem fetch_ok {s t : State} {i : Instr} (e : fetch s = .ok (i, t)) : Fetches s t := by
  have h := fetch_keeps s
  rwa [e] at h

theorem fetch_error {s t : State} (e : fetch s = .error t) : Fetches s t := by
  have h := fetch_keeps s
  rwa [e] at h

/-- PREFIX fetches RAW, LOOP every other operation (30_encoding R94, R106). -/
theorem fetch_instr {s t : State} {i : Instr} (e : fetch s = .ok (i, t)) :
    (s.phase = .litPrefix ∧ ∃ v, i = .raw v) ∨
    (s.phase ≠ .litPrefix ∧ ((∃ v, i = .lit v) ∨ (∃ k, i = .dic k) ∨ ∃ op r, i = .copy op r)) := by
  unfold fetch State.part at e
  split at e
  · exact .inl ⟨by assumption, decodeRaw_ok e⟩
  · exact .inr ⟨by assumption, decodeOp_ok e⟩

end Sys2Proof.Machine
end

section
/-! SUPPORT. Move-to-front keeps the slots of a list distinct (42_dictionary_cache R163, R166). -/

namespace Sys2Proof.Machine

theorem firstIndex_eq_some {v : Byte} {xs : List Byte} {p : Nat} (h : firstIndex v xs = some p) :
    p < xs.length ∧ xs.eraseIdx p = xs.erase v := by
  induction xs generalizing p with
  | nil => cases h
  | cons x xs ih =>
    rw [firstIndex] at h
    split at h
    · cases h; subst x; simp
    · obtain ⟨q, hq, rfl⟩ := Option.map_eq_some_iff.1 h
      obtain ⟨hlt, her⟩ := ih hq
      have hx : (x == v) = false := by simpa using ‹¬x = v›
      exact ⟨by simpa using hlt, by rw [List.eraseIdx_cons_succ, her, List.erase_cons, hx]; rfl⟩

theorem firstIndex_eq_none {v : Byte} {xs : List Byte} (h : firstIndex v xs = none) : v ∉ xs := by
  induction xs with
  | nil => simp
  | cons x xs ih =>
    rw [firstIndex] at h
    split at h
    · cases h
    · have hx : ¬x = v := by assumption
      simpa [Ne.symm hx] using ih (Option.map_eq_none_iff.1 h)

/-- Shifting a value in over slot `p` puts it in front of the list without that slot. -/
theorem toList_shiftIn (l : DictList) {p : Nat} (hp : p < 8) (v : Byte) :
    (shiftIn l p v).toList = v :: l.toList.eraseIdx p := by
  have hl : l.toList = [l[0], l[1], l[2], l[3], l[4], l[5], l[6], l[7]] :=
    List.ext_getElem (by simp) fun i hi _ => by
      have hi : i < 8 := by simpa using hi
      interval_cases i <;> simp
  rw [hl]
  interval_cases p <;> rfl

theorem moveToFront_nodup {l : DictList} (h : l.toList.Nodup) (v : Byte) : (moveToFront l v).toList.Nodup := by
  unfold moveToFront
  split
  · rename_i p hpos
    obtain ⟨hlt, her⟩ := firstIndex_eq_some hpos
    split
    · exact h
    · rw [toList_shiftIn l (by simpa using hlt), her]
      exact List.nodup_cons.2 ⟨h.not_mem_erase, h.erase v⟩
  · have hv := firstIndex_eq_none (by assumption : position l v = none)
    rw [toList_shiftIn l (by decide)]
    exact List.nodup_cons.2 ⟨fun hm => hv (List.mem_of_mem_eraseIdx hm), h.eraseIdx 7⟩

theorem dictList_setDictList (d : Dict) (r : Byte) (l : DictList) (q : Byte) :
    dictList (setDictList d r l) q = if q = r then l else dictList d q := by
  simp only [dictList, setDictList, Vector.getElem_set, BitVec.toNat_inj, eq_comm]

/-- An update keeps the dictionary invariant (42_dictionary_cache R166). -/
theorem update_distinct {d : Dict} (h : dictDistinct d) (r v : Byte) : dictDistinct (update d r v) := by
  intro q
  rw [update, dictList_setDictList]
  split
  · exact moveToFront_nodup (h r) v
  · exact h q

theorem dictDistinct_replicate {l : DictList} (h : l.toList.Nodup) : dictDistinct (Vector.replicate 256 l) := by
  intro r
  rwa [dictList, Vector.getElem_replicate]

end Sys2Proof.Machine
end

section
/-! SUPPORT. The Bit Writer's registers after a write (10_state R28, 40_bit_primitives R125). -/

namespace Sys2Proof.Machine

/-- WACC holds WCNT bits and OUT is exactly the bytes `0 .. OLEN - 1` (10_state R24, R28). -/
def State.packed (s : State) : Prop := s.wAcc.toNat < 2 ^ s.wCnt.toNat ∧ s.out.map Prod.fst = List.range s.olen

/-- The number of bits written since START. -/
def State.bitsOut (s : State) : Nat := 8 * s.olen + s.wCnt.toNat

theorem State.writerOk_iff (s : State) : s.writerOk ↔ s.packed ∧ s.bitsOut ≤ 10 * s.cur := and_assoc.symm

/-- `t` is `s` after `n` bits have been written: nothing but the Bit Writer and OUT differs. -/
structure Wrote (n : Nat) (s t : State) : Prop where
  frame : ∃ o a c l, t = { s with out := o, wAcc := a, wCnt := c, olen := l }
  bits : t.bitsOut = s.bitsOut + n
  packed : s.packed → t.packed
  outWf : Memory.wf s.out → Memory.wf t.out

theorem Wrote.refl (s : State) : Wrote 0 s s := ⟨⟨_, _, _, _, rfl⟩, rfl, id, id⟩

theorem Wrote.trans {m n : Nat} {s t u : State} (h : Wrote m s t) (h' : Wrote n t u) : Wrote (m + n) s u := by
  obtain ⟨⟨o, a, c, l, rfl⟩, hbits, hpacked, hwf⟩ := h
  obtain ⟨⟨o, a, c, l, rfl⟩, hbits', hpacked', hwf'⟩ := h'
  exact ⟨⟨o, a, c, l, rfl⟩, by omega, hpacked' ∘ hpacked, hwf' ∘ hwf⟩

/-- A memory whose addresses all lie below `a` is written at its end. -/
theorem Memory.write_append {m : Memory} {a : Nat} (h : ∀ c ∈ m, c.1 < a) (v : Byte) :
    Memory.write m a v = m ++ [(a, v)] := by
  induction m with
  | nil => rfl
  | cons c m ih =>
    obtain ⟨hc, hm⟩ := List.forall_mem_cons.1 h
    obtain ⟨b, x⟩ := c
    have hb : b < a := hc
    simp only [Memory.write]
    rw [if_neg (by omega), if_neg (by omega), ih hm, List.cons_append]

/-- OUT grows by one byte at its end (10_state R24). -/
theorem map_fst_write_range {m : Memory} {n : Nat} (h : m.map Prod.fst = List.range n) (v : Byte) :
    (Memory.write m n v).map Prod.fst = List.range (n + 1) := by
  have hlt : ∀ c ∈ m, c.1 < n := fun c hc => by
    simpa [h] using List.mem_map_of_mem (f := Prod.fst) hc
  simp [Memory.write_append hlt, h, List.range_succ]

theorem toNat_shiftIn_bit_lt {a : BitVec 8} {k : Nat} (h : a.toNat < 2 ^ k) (b : Bool) :
    (a <<< 1 ||| (BitVec.ofBool b).setWidth 8).toNat < 2 ^ (k + 1) := by
  have ha : (a <<< 1).toNat < 2 ^ (k + 1) := by
    rw [BitVec.toNat_shiftLeft, Nat.shiftLeft_eq, Nat.pow_succ]
    exact (Nat.mod_le _ _).trans_lt (by omega)
  have hb : ((BitVec.ofBool b).setWidth 8).toNat < 2 ^ (k + 1) := by
    refine lt_of_lt_of_le ?_ (Nat.pow_le_pow_right (by decide) (Nat.le_add_left 1 k))
    cases b <;> decide
  rw [BitVec.toNat_or]
  exact Nat.or_lt_two_pow ha hb

theorem writeBit_wrote (s : State) (b : Bool) : Wrote 1 s (writeBit s b) := by
  unfold writeBit
  dsimp only
  split
  · rename_i hfull
    refine ⟨⟨_, _, _, _, rfl⟩, ?_, fun ⟨_, hout⟩ => ⟨Nat.one_pos, map_fst_write_range hout _⟩,
      fun h => Memory.write_wf h _ _⟩
    change 8 * (s.olen + 1) + 0 = 8 * s.olen + s.wCnt.toNat + 1
    omega
  · rename_i hroom
    have hc : (s.wCnt + 1).toNat = s.wCnt.toNat + 1 := by bv_omega
    refine ⟨⟨_, _, _, _, rfl⟩, ?_, fun ⟨hacc, hout⟩ => ⟨?_, hout⟩, id⟩
    · change 8 * s.olen + (s.wCnt + 1).toNat = 8 * s.olen + s.wCnt.toNat + 1
      omega
    · change _ < 2 ^ (s.wCnt + 1).toNat
      rw [hc]
      exact toNat_shiftIn_bit_lt hacc b

theorem foldl_writeBit_wrote (bits : List Bool) (s : State) : Wrote bits.length s (bits.foldl writeBit s) := by
  induction bits generalizing s with
  | nil => exact .refl s
  | cons b bits ih =>
    rw [List.length_cons, Nat.add_comm]
    exact (writeBit_wrote s b).trans (ih _)

theorem writeBits_wrote (v n : Nat) (s : State) : Wrote n s (writeBits v n s) := by
  simpa [writeBits_eq_foldl] using foldl_writeBit_wrote (natBits n v) s

/-- A canonical run count and a copy's opcode take at most ten bits for each pixel-group of the run (44_encoder R234). -/
theorem encodeVarint_wrote {v : Nat} (hv : 1 ≤ v) (s : State) :
    ∃ n, n + 4 ≤ 10 * v ∧ Wrote n s (encodeVarint v s) := by
  have h2 := writeBits_wrote 0 2 s
  have h6 := h2.trans (writeBits_wrote 0 4 _)
  have h14 := h6.trans (writeBits_wrote 0 8 _)
  have h30 := h14.trans (writeBits_wrote 0 16 _)
  unfold encodeVarint
  split
  · exact ⟨2, by omega, writeBits_wrote v 2 s⟩
  split
  · exact ⟨6, by omega, h2.trans (writeBits_wrote _ 4 _)⟩
  split
  · exact ⟨14, by omega, h6.trans (writeBits_wrote _ 8 _)⟩
  split
  · exact ⟨30, by omega, h14.trans (writeBits_wrote _ 16 _)⟩
  · exact ⟨62, by omega, (h30.trans (writeBits_wrote _ 16 _)).trans (writeBits_wrote _ 16 _)⟩

theorem emitPixelBits_wrote (found : Option Nat) (v : Byte) (s : State) :
    ∃ n ≤ 10, Wrote n s (emitPixelBits found v s) := by
  cases found with
  | some slot =>
    exact ⟨5, by decide, ((writeBits_wrote 0 1 s).trans (writeBits_wrote 0 1 _)).trans (writeBits_wrote slot 3 _)⟩
  | none =>
    exact ⟨10, by decide, ((writeBits_wrote 0 1 s).trans (writeBits_wrote 1 1 _)).trans (writeBits_wrote v.toNat 8 _)⟩

/-- A flush writes out at most one byte and leaves OUT canonical (40_bit_primitives R126). -/
theorem flush_out (s : State) :
    (flush s).olen ≤ s.olen + 1 ∧ (Memory.wf s.out → Memory.wf (flush s).out) := by
  unfold flush
  split
  · exact ⟨Nat.le_succ _, id⟩
  · exact ⟨le_rfl, fun h => Memory.write_wf h _ _⟩

theorem finish_out (s : State) :
    (finish s).olen ≤ s.olen + 1 ∧ (Memory.wf s.out → Memory.wf (finish s).out) := by
  cases h : s.cfgMode with
  | decode => rw [finish_decode h]; exact ⟨Nat.le_succ _, id⟩
  | encode => rw [finish_encode h]; exact flush_out s

theorem loopTest_out (s : State) :
    (loopTest s).olen ≤ s.olen + 1 ∧ (Memory.wf s.out → Memory.wf (loopTest s).out) := by
  rcases loopTest_cases s with ⟨e, _⟩ | ⟨e, _⟩ | ⟨e, _⟩ <;> rw [e]
  · exact ⟨Nat.le_succ _, id⟩
  · exact ⟨Nat.le_succ _, id⟩
  · exact finish_out _

end Sys2Proof.Machine
end

section
/-! SUPPORT. What a step of a running pass can do, said once for both engines: the work of one operation, of which `Works` says
what it leaves alone and that it keeps the invariant up to the loop tests, and then those tests or the entry of FAULT. -/

namespace Sys2Proof.Machine

theorem State.running_iff {s : State} : s.running = true ↔ s.phase = .litPrefix ∨ s.phase = .mainLoop := by
  simp [State.running]

/-! ## The invariant between the work of a step and its loop tests -/

/-- The cursor before the loop tests: at most at the end of the loop it is in (10_state R34). -/
abbrev State.cursorReached (s : State) : Prop :=
  (s.phase = .litPrefix → s.cur ≤ s.prefixBytes) ∧
  (s.phase = .mainLoop → s.cur ≤ s.size ∧ 2 * s.bpp ≤ s.cur ∧ s.cur % s.bpp = 0)

/-- `State.Inv` of a running pass, the cursor being allowed at the end of its loop. -/
structure State.Worked (s : State) : Prop where
  running : s.running = true
  noFault : s.faultCode = .none
  streamWf : Memory.wf s.stream
  canvasWf : Memory.wf s.canvas
  outWf : Memory.wf s.out
  config : s.configLegal = true
  cursor : s.cursorReached
  dict : dictDistinct s.dict
  reader : s.cfgMode = .decode → s.readerOk
  writer : s.cfgMode = .encode → s.writerOk

theorem State.Inv.worked {s : State} (h : s.Inv) (hrun : s.running = true) : s.Worked where
  running := hrun
  noFault := by
    have hphase : s.phase ≠ .fault := by rcases State.running_iff.1 hrun with hp | hp <;> simp [hp]
    exact not_not.1 fun hc => hphase (h.faultCode.2 hc)
  streamWf := h.streamWf
  canvasWf := h.canvasWf
  outWf := h.outWf
  config := h.config hrun
  cursor := ⟨fun hp => (h.cursor.1 hp).le, fun hp => ⟨(h.cursor.2 hp).1.le, (h.cursor.2 hp).2⟩⟩
  dict := h.dict hrun
  reader := h.reader hrun
  writer := h.writer hrun

theorem State.Worked.cur_le_size {s : State} (h : s.Worked) : s.cur ≤ s.size := by
  rcases State.running_iff.1 h.running with hp | hp
  · exact (h.cursor.1 hp).trans s.prefixBytes_le_size
  · exact (h.cursor.2 hp).1

/-- A state in which no pass runs has the invariant when its memories and FAULTCODE do. -/
theorem State.Inv.of_not_running {s : State} (hrun : s.running = false) (hstream : Memory.wf s.stream)
    (hcanvas : Memory.wf s.canvas) (hout : Memory.wf s.out) (hfault : s.phase = .fault ↔ s.faultCode ≠ .none) : s.Inv where
  streamWf := hstream
  canvasWf := hcanvas
  outWf := hout
  faultCode := hfault
  config h := by simp [hrun] at h
  cursor := ⟨fun hp => by simp [State.running, hp] at hrun, fun hp => by simp [State.running, hp] at hrun⟩
  dict h := by simp [hrun] at h
  reader h := by simp [hrun] at h
  writer h := by simp [hrun] at h

/-- The invariant holds again where the cursor is short of the end of its loop. -/
theorem State.Worked.inv {s : State} (h : s.Worked) (hcur : s.cursorOk) : s.Inv where
  streamWf := h.streamWf
  canvasWf := h.canvasWf
  outWf := h.outWf
  faultCode := by rcases State.running_iff.1 h.running with hp | hp <;> simp [hp, h.noFault]
  config _ := h.config
  cursor := hcur
  dict _ := h.dict
  reader _ := h.reader
  writer _ := h.writer

/-- The loop tests restore the invariant (10_state R31, R34). -/
theorem State.Worked.loopTest_inv {s : State} (h : s.Worked) : (loopTest s).Inv := by
  rcases loopTest_cases s with ⟨e, hprefix, hloop⟩ | ⟨e, hp, hge, hlt⟩ | ⟨e, _, _⟩
  · rw [e]
    exact h.inv ⟨hprefix, fun hp => ⟨hloop hp, (h.cursor.2 hp).2⟩⟩
  · -- PREFIX ends below SIZE, so the cursor stands at 2P
    have hcur : s.cur = 2 * s.bpp := by
      have hle := h.cursor.1 hp
      rw [State.prefixBytes] at hle hge
      omega
    have hw : State.Worked { s with phase := .mainLoop } :=
      { h with running := rfl, cursor := ⟨nofun, fun _ => ⟨hlt.le, hcur.ge, hcur ▸ Nat.mul_mod_left 2 s.bpp⟩⟩ }
    rw [e]
    exact hw.inv ⟨nofun, fun _ => ⟨hlt, (hw.cursor.2 rfl).2⟩⟩
  · have hphase : (loopTest s).phase = .done := by rw [e]; simp
    exact .of_not_running (by simp [State.running, hphase]) (by simpa using h.streamWf) (by simpa using h.canvasWf)
      ((loopTest_out s).2 h.outWf) (by simp [hphase, h.noFault])

/-- Taking a fault keeps the invariant (60_exceptions R267). -/
theorem State.Worked.raise_inv {s : State} (h : s.Worked) {c : FaultCode} (hc : c ≠ .none) : (raise c s).Inv :=
  .of_not_running rfl h.streamWf h.canvasWf h.outWf (by simpa using hc)

/-- A decoded operation writes the canvas and the dictionary and moves the cursor on. -/
theorem State.Worked.advance {s : State} (h : s.Worked) {m : Memory} {d : Dict} {c : Nat} (hm : Memory.wf m)
    (hd : dictDistinct d) (hc : s.cur ≤ c) (hcur : State.cursorReached { s with cur := c }) :
    State.Worked { s with canvas := m, dict := d, cur := c } :=
  { h with
    canvasWf := hm, dict := hd, cursor := hcur
    writer := fun hmode => by
      obtain ⟨hacc, hout, hbits⟩ := h.writer hmode
      exact ⟨hacc, hout, hbits.trans (Nat.mul_le_mul_left 10 hc)⟩ }

/-- An emitted operation writes at most ten bits for each byte it moves the cursor on (44_encoder R234). -/
theorem State.Worked.emit {s t : State} (h : s.Worked) {n c : Nat} {d : Dict} (hw : Wrote n s t)
    (hd : dictDistinct d) (hc : s.cur ≤ c) (hn : n ≤ 10 * (c - s.cur))
    (hcur : State.cursorReached { s with cur := c }) : State.Worked { t with dict := d, cur := c } := by
  obtain ⟨⟨o, a, k, l, rfl⟩, hbits, hpacked, hwf⟩ := hw
  refine { h with outWf := hwf h.outWf, cursor := hcur, dict := hd, writer := fun hmode => ?_ }
  obtain ⟨hp, hb⟩ := (State.writerOk_iff s).1 (h.writer hmode)
  exact (State.writerOk_iff _).2 ⟨hpacked hp, hbits.trans_le (show s.bitsOut + n ≤ 10 * c by omega)⟩

/-! ## The work of one operation -/

/-- The configuration, STREAM, PHASE and FAULTCODE of `t` are those of `s`. -/
structure SameSetup (s t : State) : Prop where
  cfgWidth : t.cfgWidth = s.cfgWidth
  cfgHeight : t.cfgHeight = s.cfgHeight
  cfgBpp : t.cfgBpp = s.cfgBpp
  cfgMode : t.cfgMode = s.cfgMode
  cfgSlen : t.cfgSlen = s.cfgSlen
  stream : t.stream = s.stream
  phase : t.phase = s.phase
  faultCode : t.faultCode = s.faultCode

/-- `u` is `s` after the work of one operation, before the loop tests or the entry of FAULT. -/
structure Works (s u : State) : Prop where
  setup : SameSetup s u
  cur : s.cur ≤ u.cur
  w : u.w = s.w ∨ u.w = s.cur
  src : u.src = s.src ∨ u.src ≤ s.cur + s.bpp
  keepsInv : s.running = true → s.Inv → u.Worked

/-- How a step of a running pass ends after its work: with the loop tests, or by entering FAULT with a code. -/
inductive Ends (u : State) : State → Prop where
  | tests : Ends u (loopTest u)
  | fault {c : FaultCode} (h : c ≠ .none) : Ends u (raise c u)

theorem Works.of_fetches {s t u : State} (h : Fetches s t) (hu : Works t u) : Works s u := by
  obtain ⟨⟨p, c, b, o, f, rfl⟩, hinv⟩ := h
  obtain ⟨⟨hw, hh, hp, hm, hl, hst, hph, hf⟩, hcur, hw', hsrc, hkeep⟩ := hu
  exact ⟨⟨hw, hh, hp, hm, hl, hst, hph, hf⟩, hcur, hw', hsrc, fun hrun hi => hkeep hrun (hinv hi)⟩

theorem Works.refl (s : State) : Works s s :=
  ⟨⟨rfl, rfl, rfl, rfl, rfl, rfl, rfl, rfl⟩, le_rfl, .inl rfl, .inl rfl, fun hrun hi => hi.worked hrun⟩

/-- A whole number of pixel-groups that fits the canvas takes the cursor of LOOP to a place of LOOP or to its end. -/
theorem State.Inv.cursorReached_of_group {s : State} (h : s.Inv) (hp : s.phase = .mainLoop) {c : Nat}
    (hle : s.cur ≤ c) (hfit : c ≤ s.size) (hmod : (c - s.cur) % s.bpp = 0) :
    State.cursorReached { s with cur := c } := by
  obtain ⟨_, hprod, hgrid⟩ := h.cursor.2 hp
  refine ⟨fun hp' => ?_, fun _ => ⟨hfit, hprod.trans hle, ?_⟩⟩
  · cases hp.symm.trans hp'
  · change c % s.bpp = 0
    rw [← Nat.add_sub_cancel' hle, Nat.add_mod, hgrid, hmod]; rfl

/-- In LOOP there is room for a pixel-group at the cursor (10_state R34). -/
theorem State.Inv.group_fits {s : State} (h : s.Inv) (hp : s.phase = .mainLoop) : s.cur + s.bpp ≤ s.size := by
  obtain ⟨hlt, _, hgrid⟩ := h.cursor.2 hp
  obtain ⟨a, ha⟩ := Nat.dvd_of_mod_eq_zero hgrid
  obtain ⟨b, hb⟩ := Nat.dvd_of_mod_eq_zero s.size_mod_bpp
  rw [ha, hb] at hlt
  have hab : a + 1 ≤ b := Nat.lt_of_mul_lt_mul_left hlt
  calc s.cur + s.bpp = s.bpp * (a + 1) := by rw [ha, Nat.mul_succ]
    _ ≤ s.bpp * b := Nat.mul_le_mul_left _ hab
    _ = s.size := hb.symm

/-- A byte of PREFIX takes the cursor to a place of PREFIX or to its end. -/
theorem State.Inv.cursorReached_of_byte {s : State} (h : s.Inv) (hp : s.phase = .litPrefix) :
    State.cursorReached { s with cur := s.cur + 1 } :=
  ⟨fun _ => h.cursor.1 hp, fun hp' => by cases hp.symm.trans hp'⟩

theorem State.mainLoop_of_running {s : State} (hrun : s.running = true) (hp : s.phase ≠ .litPrefix) :
    s.phase = .mainLoop := (State.running_iff.1 hrun).resolve_left hp

theorem writeRaw_works {v : Byte} {s t : State} (hp : s.phase = .litPrefix) (h : writeRaw v s = .next t) :
    ∃ u, Works s u ∧ Ends u t := by
  obtain ⟨_, rfl⟩ := writeRaw_next h
  refine ⟨_, ?_, .tests⟩
  refine ⟨⟨rfl, rfl, rfl, rfl, rfl, rfl, rfl, rfl⟩, Nat.le_succ _, .inl rfl, .inl rfl, fun hrun hi => ?_⟩
  exact { (hi.worked hrun).advance (Memory.write_wf hi.canvasWf s.cur v) (hi.dict hrun) (Nat.le_succ _)
    (hi.cursorReached_of_byte hp) with }

/-- LIT, and DIC, which has recorded its slot index. -/
theorem writePixel_works {value : Byte → Byte} (k : BitVec 3) {s t : State} (hp : s.phase ≠ .litPrefix)
    (h : writePixel value { s with slot := k } = .next t) : ∃ u, Works s u ∧ Ends u t := by
  obtain ⟨_, _, rfl⟩ := writePixel_next h
  refine ⟨_, ?_, .tests⟩
  refine ⟨⟨rfl, rfl, rfl, rfl, rfl, rfl, rfl, rfl⟩, Nat.le_add_right _ _, .inl rfl, .inl rfl, fun hrun hi => ?_⟩
  have hloop := State.mainLoop_of_running hrun hp
  exact { (hi.worked hrun).advance (Memory.write_wf hi.canvasWf s.cur _) (update_distinct (hi.dict hrun) _ _)
    (Nat.le_add_right _ _) (hi.cursorReached_of_group hloop (Nat.le_add_right _ _) (hi.group_fits hloop) (by simp)) with }

/-- The source of a copy lies at most one pixel-group past the cursor (43_decoder_ops R188 to R192). -/
theorem sourceOffset_le {op : CopyOp} {p l w src : Nat} (h : sourceOffset op p l w = some src) : src ≤ w + p := by
  cases op <;> simp only [sourceOffset, Option.ite_none_right_eq_some, Option.some.injEq] at h
  case cprev => omega
  all_goals split at h <;> omega

theorem copyRun_works {op : CopyOp} {n : BitVec 32} {s t : State} (hp : s.phase ≠ .litPrefix)
    (h : copyRun op n s = .next t) : ∃ u, Works s u ∧ Ends u t := by
  obtain ⟨src, hsrc, ⟨_, rfl⟩ | ⟨hfit, _, rfl⟩⟩ := copyRun_next h
  · refine ⟨_, ?_, .fault FaultCode.noConfusion⟩
    exact ⟨⟨rfl, rfl, rfl, rfl, rfl, rfl, rfl, rfl⟩, le_rfl, .inr rfl, .inr (sourceOffset_le hsrc),
      fun hrun hi => { hi.worked hrun with }⟩
  · refine ⟨_, ?_, .tests⟩
    refine ⟨⟨rfl, rfl, rfl, rfl, rfl, rfl, rfl, rfl⟩, Nat.le_add_right _ _, .inr rfl, .inr (sourceOffset_le hsrc),
      fun hrun hi => ?_⟩
    exact { (hi.worked hrun).advance (copyForward_wf hi.canvasWf _ _ _) (hi.dict hrun) (Nat.le_add_right _ _)
      (hi.cursorReached_of_group (State.mainLoop_of_running hrun hp) (Nat.le_add_right _ _) hfit (by simp)) with }

theorem decodeStep_works {s t : State} (h : decodeStep s = .next t) : ∃ u, Works s u ∧ Ends u t := by
  rcases decodeStep_cases s with ⟨i, v, hf, e⟩ | ⟨v, hf, e⟩ <;> rw [e] at h
  · have hfetch := fetch_ok hf
    have hphase : v.phase = s.phase := by obtain ⟨p, c, b, o, f, rfl⟩ := hfetch.frame; rfl
    have hexec : ∃ u, Works v u ∧ Ends u t := by
      rcases fetch_instr hf with ⟨hp, b, rfl⟩ | ⟨hp, ⟨b, rfl⟩ | ⟨k, rfl⟩ | ⟨op, r, rfl⟩⟩ <;> rw [← hphase] at hp
      · exact writeRaw_works hp h
      · exact writePixel_works v.slot hp h
      · exact writePixel_works k hp h
      · exact copyRun_works hp (exec_copy op r v ▸ h)
    obtain ⟨u, hu, hend⟩ := hexec
    exact ⟨u, .of_fetches hfetch hu, hend⟩
  · cases h
    exact ⟨v, .of_fetches (fetch_error hf) (.refl v), .fault FaultCode.noConfusion⟩

/-! ## The encoder -/

theorem matchRun_le (c : Memory) (p src w limit : Nat) : matchRun c p src w limit ≤ limit := by
  induction limit generalizing src w with
  | zero => exact le_rfl
  | succ limit ih =>
    rw [matchRun]
    split
    · exact Nat.succ_le_succ (ih _ _)
    · exact Nat.zero_le _

/-- A candidate's run ends within the canvas (44_encoder R224). -/
theorem candidateRun_fits (s : State) (op : CopyOp) : candidateRun s op * s.bpp ≤ s.size - s.cur := by
  have hrun : candidateRun s op ≤ (s.size - s.cur) / s.bpp := by
    unfold candidateRun
    split
    · split
      · exact matchRun_le _ _ _ _ _
      · exact Nat.zero_le _
    · exact Nat.zero_le _
  exact (Nat.mul_le_mul_right _ hrun).trans (Nat.div_mul_le_self _ _)

/-- The chosen copy comes with the run of its own candidate (44_encoder R225). -/
theorem best_run {s : State} {op : CopyOp} {n : Nat} (h : best s = (some op, n)) : n = candidateRun s op := by
  have hall : ∀ op, (best s).1 = some op → (best s).2 = candidateRun s op := by
    refine List.foldlRecOn (motive := fun b : Option CopyOp × Nat => ∀ op, b.1 = some op → b.2 = candidateRun s op)
      trialOrder _ (fun _ h => nomatch h) fun b hb op' _ op h => ?_
    split
    · rename_i hlt
      rw [if_pos hlt] at h
      cases h; rfl
    · rename_i hle
      rw [if_neg hle] at h
      exact hb op h
  simpa [h] using hall op

theorem Wrote.dict {n : Nat} {s t : State} (h : Wrote n s t) : t.dict = s.dict := by
  obtain ⟨o, a, k, l, rfl⟩ := h.frame; rfl

/-- An emission, made after VAL and REF are recorded, is the work of one operation when the bits written suit the bytes the
cursor moves on. -/
theorem Wrote.works {n c : Nat} {d : Dict} {v r : Byte} {s t : State} (hw : Wrote n { s with val := v, ref := r } t)
    (hc : s.cur ≤ c) (hkeep : s.running = true → s.Inv →
      dictDistinct d ∧ n ≤ 10 * (c - s.cur) ∧ State.cursorReached { s with cur := c }) :
    Works s { t with dict := d, cur := c } := by
  have hinv (hrun : s.running = true) (hi : s.Inv) : State.Worked { t with dict := d, cur := c } := by
    obtain ⟨hd, hn, hcur⟩ := hkeep hrun hi
    have hrecorded : State.Worked { s with val := v, ref := r } := { hi.worked hrun with }
    exact hrecorded.emit hw hd hc hn hcur
  obtain ⟨o, a, k, l, rfl⟩ := hw.frame
  exact ⟨⟨rfl, rfl, rfl, rfl, rfl, rfl, rfl, rfl⟩, hc, .inl rfl, .inl rfl, hinv⟩

/-- An emission that leaves the dictionary, VAL and REF alone. -/
theorem Wrote.works_of_cursor {n c : Nat} {s t : State} (hw : Wrote n s t) (hc : s.cur ≤ c)
    (hkeep : s.running = true → s.Inv → n ≤ 10 * (c - s.cur) ∧ State.cursorReached { s with cur := c }) :
    Works s { t with cur := c } :=
  Wrote.works (v := s.val) (r := s.ref) (d := t.dict) hw hc fun hrun hi => ⟨hw.dict ▸ hi.dict hrun, hkeep hrun hi⟩

theorem emitPrefixByte_works {s : State} (hp : s.phase = .litPrefix) : Works s (emitPrefixByte s) := by
  unfold emitPrefixByte
  exact (writeBits_wrote _ 8 s).works_of_cursor (Nat.le_succ _) fun _ hi => ⟨by omega, hi.cursorReached_of_byte hp⟩

theorem emitCopy_wrote {n : Nat} (op : CopyOp) (hn : 1 ≤ n) (s : State) :
    ∃ k ≤ 10 * n, Wrote k s (encodeVarint n (writeBits op.code.1 op.code.2 s)) := by
  obtain ⟨k, hk, hrun⟩ := encodeVarint_wrote hn (writeBits op.code.1 op.code.2 s)
  have hcode : op.code.2 ≤ 4 := by cases op <;> decide
  exact ⟨_, by omega, (writeBits_wrote op.code.1 op.code.2 s).trans hrun⟩

theorem State.Inv.bpp_pos {s : State} (h : s.Inv) (hrun : s.running = true) : 1 ≤ s.bpp := by
  rcases State.bpp_of_legal (h.config hrun) with h | h <;> omega

theorem emitCopy_works {s : State} {op : CopyOp} {n : Nat} (hp : s.phase ≠ .litPrefix) (hbest : best s = (some op, n))
    (hn : 2 ≤ n) : Works s (emitCopy op n s) := by
  obtain ⟨k, hk, hw⟩ := emitCopy_wrote op (by omega : 1 ≤ n) s
  unfold emitCopy
  refine hw.works_of_cursor (Nat.le_add_right _ _) fun hrun hi => ⟨?_, ?_⟩
  · have := Nat.le_mul_of_pos_right n (hi.bpp_pos hrun)
    omega
  · have hloop := State.mainLoop_of_running hrun hp
    have hroom := best_run hbest ▸ candidateRun_fits s op
    have hlt := (hi.cursor.2 hloop).1
    exact hi.cursorReached_of_group hloop (Nat.le_add_right _ _) (by omega) (by simp)

theorem emitPixel_works {s t : State} (hp : s.phase ≠ .litPrefix) (h : emitPixel s = .ok t) : Works s t := by
  obtain ⟨_, _, rfl⟩ := emitPixel_ok h
  obtain ⟨n, hn, hw⟩ := emitPixelBits_wrote (find s.dict (s.canvasByte (s.cur - s.bpp)) (s.canvasByte s.cur))
    (s.canvasByte s.cur) { s with val := s.canvasByte s.cur, ref := s.canvasByte (s.cur - s.bpp) }
  refine hw.works (Nat.le_add_right _ _) fun hrun hi => ⟨update_distinct (hi.dict hrun) _ _, ?_, ?_⟩
  · have := hi.bpp_pos hrun
    omega
  · have hloop := State.mainLoop_of_running hrun hp
    exact hi.cursorReached_of_group hloop (Nat.le_add_right _ _) (hi.group_fits hloop) (by simp)

theorem emitOperation_works {s t : State} (hp : s.phase ≠ .litPrefix) (h : emitOperation s = .ok t) : Works s t := by
  rcases emitOperation_cases s with ⟨op, n, hbest, hn, e⟩ | ⟨_, e⟩ <;> rw [e] at h
  · obtain rfl := Except.ok.inj h
    exact emitCopy_works hp hbest hn
  · exact emitPixel_works hp h

theorem encodeStep_works {s t : State} (h : encodeStep s = .next t) : ∃ u, Works s u ∧ Ends u t := by
  rcases encodeStep_cases s with ⟨hp, e⟩ | ⟨hp, u, hemit, e⟩ | ⟨_, f, _, e⟩ <;> rw [e] at h
  · obtain rfl := Host.Outcome.next.inj h
    exact ⟨_, emitPrefixByte_works hp, .tests⟩
  · obtain rfl := Host.Outcome.next.inj h
    exact ⟨u, emitOperation_works hp hemit, .tests⟩
  · cases h

/-- A step of a running pass is the work of one operation, or of none, and then the loop tests or the entry of FAULT. -/
theorem step_works {s t : State} (hrun : s.running = true) (h : step s = .next t) : ∃ u, Works s u ∧ Ends u t := by
  have hdrop : ∃ u, Works (dropStart s) u ∧ Ends u t := by
    rcases step_cases s with ⟨_, _, _, e⟩ | ⟨_, _, _, e⟩ | ⟨_, _, e⟩ | ⟨hidle, _⟩
    · exact decodeStep_works (e ▸ h)
    · exact encodeStep_works (e ▸ h)
    · cases e.symm.trans h
      exact ⟨_, .refl _, .tests⟩
    · simp [hrun] at hidle
  obtain ⟨u, ⟨setup, hcur, hw, hsrc, hkeep⟩, hend⟩ := hdrop
  exact ⟨u, ⟨{ setup with }, hcur, hw, hsrc, fun hrun hi => hkeep hrun { hi with }⟩, hend⟩

end Sys2Proof.Machine
end

section
/-! SUPPORT. What a step can do to the whole machine: the frame of every step, the invariant, and the widths of a pass. -/

namespace Sys2Proof.Machine

/-! ## A step without a running pass -/

theorem State.prefixBytes_pos {s : State} (h : s.size ≠ 0) : 0 < s.prefixBytes := by
  have hbpp : s.bpp ≠ 0 := fun h' => h (by rw [State.size, h', Nat.mul_zero])
  unfold State.prefixBytes
  omega

/-- A state that has just begun a pass, or ended it at once for an empty canvas, has the invariant when its memories and its
engine's registers do (70_reset R291). -/
theorem State.Inv.of_started {s : State} (hphase : s.phase = if s.size = 0 then .done else .litPrefix)
    (hfault : s.faultCode = .none) (hcur : s.cur = 0) (hdict : s.dict = seedDict) (hconfig : s.configLegal = true)
    (hstream : Memory.wf s.stream) (hcanvas : Memory.wf s.canvas) (hout : Memory.wf s.out)
    (hreader : s.cfgMode = .decode → s.readerOk) (hwriter : s.cfgMode = .encode → s.writerOk) : s.Inv := by
  split at hphase
  · exact .of_not_running (by simp [State.running, hphase]) hstream hcanvas hout (by simp [hphase, hfault])
  · have hprefix := State.prefixBytes_pos (by assumption : s.size ≠ 0)
    have hw : s.Worked :=
      { running := by simp [State.running, hphase], noFault := hfault, streamWf := hstream, canvasWf := hcanvas
        outWf := hout, config := hconfig, cursor := ⟨fun _ => by omega, fun hp => by simp [hphase] at hp⟩
        dict := hdict ▸ (dictDistinct_replicate (by decide) : dictDistinct seedDict), reader := hreader, writer := hwriter }
    exact hw.inv ⟨fun _ => by omega, fun hp => by simp [hphase] at hp⟩

theorem startPass_inv {s : State} (h : s.Inv) (hconfig : s.configLegal = true) : (startPass s).Inv := by
  unfold startPass
  split
  · rename_i hmode
    exact .of_started rfl rfl rfl rfl hconfig h.streamWf h.canvasWf h.outWf
      (fun _ => ⟨Nat.zero_le _, Nat.zero_le _, (Nat.mod_one _).symm⟩) (fun hm => by cases hmode.symm.trans hm)
  · rename_i hmode
    exact .of_started rfl rfl rfl rfl hconfig h.streamWf h.canvasWf List.Pairwise.nil
      (fun hm => by cases hmode.symm.trans hm) (fun _ => ⟨Nat.one_pos, rfl, Nat.zero_le _⟩)

theorem startPass_frame (s : State) :
    (startPass s).cfgWidth = s.cfgWidth ∧ (startPass s).cfgHeight = s.cfgHeight ∧ (startPass s).cfgBpp = s.cfgBpp ∧
    (startPass s).cfgMode = s.cfgMode ∧ (startPass s).cfgSlen = s.cfgSlen ∧ (startPass s).stream = s.stream ∧
    (startPass s).phase = if s.size = 0 then .done else .litPrefix := by
  unfold startPass
  split <;> simp

theorem dropStart_inv {s : State} (h : s.Inv) : (dropStart s).Inv := { h with }

theorem waitStep_inv {s : State} (h : s.Inv) : (waitStep s).Inv := by
  rcases waitStep_cases s with ⟨_, hconfig, e⟩ | ⟨_, e⟩ <;> rw [e]
  · exact startPass_inv (dropStart_inv h) hconfig
  · exact dropStart_inv h

/-- A step of a machine without a running pass is the host's START or nothing. -/
theorem step_waiting {s t : State} (hidle : s.running = false) (h : step s = .next t) : t = waitStep s := by
  rcases step_cases s with ⟨hrun, _⟩ | ⟨hrun, _⟩ | ⟨hrun, _⟩ | ⟨_, e⟩
  · simp [hidle] at hrun
  · simp [hidle] at hrun
  · simp [hidle] at hrun
  · exact (Host.Outcome.next.inj (e.symm.trans h)).symm

/-! ## A step of a running pass -/

namespace Ends

variable {u t : State}

theorem cur (h : Ends u t) : t.cur = u.cur := by cases h <;> simp

theorem w (h : Ends u t) : t.w = u.w := by cases h <;> simp

theorem src (h : Ends u t) : t.src = u.src := by cases h <;> simp

theorem size (h : Ends u t) : t.size = u.size := by cases h <;> simp

theorem olen_le (h : Ends u t) : t.olen ≤ u.olen + 1 := by
  cases h with
  | tests => exact (loopTest_out u).1
  | fault hc => exact Nat.le_succ _

theorem inv (h : Ends u t) (hu : u.Worked) : t.Inv := by
  cases h with
  | tests => exact hu.loopTest_inv
  | fault hc => exact hu.raise_inv hc

/-- A normal end of the pass is the failure of the test `CUR < SIZE` (43_decoder_ops R195, 44_encoder R228). -/
theorem size_le_of_done (h : Ends u t) (hrun : u.running = true) (hdone : t.phase = .done) : u.size ≤ u.cur := by
  cases h with
  | tests =>
    rcases loopTest_cases u with ⟨e, _⟩ | ⟨e, _⟩ | ⟨_, hle, _⟩
    · rw [e] at hdone
      simp [State.running, hdone] at hrun
    · rw [e] at hdone
      cases hdone
    · exact hle
  | fault hc => cases hdone

end Ends

/-- No step writes a configuration register or STREAM (10_state R20, 20_memory R60). -/
theorem step_configuration {s t : State} (h : step s = .next t) :
    t.cfgWidth = s.cfgWidth ∧ t.cfgHeight = s.cfgHeight ∧ t.cfgBpp = s.cfgBpp ∧ t.cfgMode = s.cfgMode ∧
    t.cfgSlen = s.cfgSlen ∧ t.stream = s.stream := by
  cases hrun : s.running with
  | true =>
    obtain ⟨u, hu, hend⟩ := step_works hrun h
    obtain ⟨hw, hh, hp, hm, hl, hst, _, _⟩ := hu.setup
    cases hend <;> simp [hw, hh, hp, hm, hl, hst]
  | false =>
    rw [step_waiting hrun h]
    rcases waitStep_cases s with ⟨_, _, e⟩ | ⟨_, e⟩ <;> rw [e]
    · obtain ⟨hw, hh, hp, hm, hl, hst, _⟩ := startPass_frame (dropStart s)
      exact ⟨hw, hh, hp, hm, hl, hst⟩
    · exact ⟨rfl, rfl, rfl, rfl, rfl, rfl⟩

/-- The places a step of a running pass leads to (10_state R31). -/
theorem step_phase_cases {s t : State} (hrun : s.running = true) (h : step s = .next t) :
    (t.phase = .litPrefix ∧ s.phase = .litPrefix ∧ t.cur < t.prefixBytes) ∨
    (t.phase = .mainLoop ∧ (s.phase = .litPrefix → t.prefixBytes ≤ t.cur) ∧ t.cur < t.size) ∨
    (t.phase = .done ∧ t.size ≤ t.cur) ∨ (t.phase = .fault ∧ t.faultCode ≠ .none) := by
  obtain ⟨u, hu, hend⟩ := step_works hrun h
  have hphase := hu.setup.phase
  have hrun' : u.running = true := by rwa [State.running, hphase]
  rw [← hphase]
  cases hend with
  | tests =>
    rcases loopTest_cases u with ⟨e, hprefix, hloop⟩ | ⟨e, hp, hge, hlt⟩ | ⟨e, hge, _⟩
    · rw [e]
      rcases State.running_iff.1 hrun' with hp | hp
      · exact .inl ⟨hp, hp, hprefix hp⟩
      · exact .inr (.inl ⟨hp, fun hp' => Phase.noConfusion (hp.symm.trans hp'), hloop hp⟩)
    · exact .inr (.inl ⟨by rw [e], fun _ => by simpa using hge, by simpa using hlt⟩)
    · exact .inr (.inr (.inl ⟨by rw [e]; simp, by simpa using hge⟩))
  | fault hc => exact .inr (.inr (.inr ⟨rfl, hc⟩))

/-! ## The widths of a pass -/

/-- Three bytes for each of fewer than 2^32 pixels (10_state R20, R25). -/
theorem State.size_le {s : State} (h : s.configLegal = true) : s.size ≤ 3 * 2 ^ 32 := by
  have hbpp : s.bpp ≤ 3 := by rcases State.bpp_of_legal h with h | h <;> omega
  have hpixels : s.cfgWidth.toNat * s.cfgHeight.toNat ≤ 2 ^ 16 * 2 ^ 16 :=
    Nat.mul_le_mul s.cfgWidth.isLt.le s.cfgHeight.isLt.le
  calc s.size ≤ 2 ^ 16 * 2 ^ 16 * 3 := Nat.mul_le_mul hpixels hbpp
    _ = 3 * 2 ^ 32 := by norm_num

theorem State.Worked.olen_lt {s : State} (h : s.Worked) (hmode : s.cfgMode = .encode) : s.olen + 1 < 2 ^ 35 := by
  obtain ⟨_, _, hbits⟩ := h.writer hmode
  have hcur := h.cur_le_size
  have hsize := State.size_le h.config
  omega

end Sys2Proof.Machine
end

section
/-! PROOFS. The obligations about the state and the steps of the machine (10_state). -/

namespace Sys2Proof.Machine

/-- Settles O44: a running pass keeps the invariant up to the loop tests, which restore it; START establishes it. -/
theorem stepKeepsInv : Obligations.StepKeepsInv := by
  intro s t hi h
  cases hrun : s.running with
  | true =>
    obtain ⟨u, hu, hend⟩ := step_works hrun h
    exact hend.inv (hu.keepsInv hrun hi)
  | false =>
    rw [step_waiting hrun h]
    exact waitStep_inv hi

/-- Settles O38, from the phases a step can end in and from START. -/
theorem phaseMovesOnlyAsAllowed : Obligations.PhaseMovesOnlyAsAllowed := by
  intro s t h
  refine ⟨fun hidle => ?_, fun hp => ?_, fun hp => ?_⟩
  · rw [step_waiting hidle h]
    rcases waitStep_cases s with ⟨hstart, hconfig, e⟩ | ⟨_, e⟩ <;> rw [e]
    · obtain ⟨_, _, _, _, _, _, hphase⟩ := startPass_frame (dropStart s)
      exact .inr ⟨⟨hidle, hstart, hconfig⟩, hphase⟩
    · exact .inl rfl
  · rcases step_phase_cases (State.running_iff.2 (.inl hp)) h with
      ⟨hprefix, _, hlt⟩ | ⟨hloop, hge, hlt⟩ | hdone | hfault
    · exact .inl ⟨hprefix, hlt⟩
    · exact .inr (.inl ⟨hloop, hge hp, hlt⟩)
    · exact .inr (.inr (.inl hdone))
    · exact .inr (.inr (.inr hfault))
  · rcases step_phase_cases (State.running_iff.2 (.inr hp)) h with
      ⟨_, hp', _⟩ | ⟨hloop, _, hlt⟩ | hdone | hfault
    · cases hp.symm.trans hp'
    · exact .inl ⟨hloop, hlt⟩
    · exact .inr (.inl hdone)
    · exact .inr (.inr hfault)

/-- Settles O39, by the frames of START, of the engines' work and of the end of a step. -/
theorem noStepWritesConfigurationOrStream : Obligations.NoStepWritesConfigurationOrStream :=
  fun _ _ h => step_configuration h

/-- Settles O41: the work of a step never lowers CUR, and under the invariant never takes it past SIZE. -/
theorem cursorNeverDecreases : Obligations.CursorNeverDecreases := by
  intro s t hrun h
  obtain ⟨u, hu, hend⟩ := step_works hrun h
  refine ⟨hend.cur ▸ hu.cur, fun hi hdone => ?_⟩
  have hw := hu.keepsInv hrun hi
  rw [hend.cur, hend.size]
  exact hw.cur_le_size.antisymm (hend.size_le_of_done hw.running hdone)

/-- Settles O48, from the bound of SIZE and from what a step leaves in OLEN, W and SRC. -/
theorem registerWidthsSuffice : Obligations.RegisterWidthsSuffice := by
  intro s hi hrun
  have hw := hi.worked hrun
  have hsize := State.size_le hw.config
  have hcur := hw.cur_le_size
  have hbpp : s.bpp ≤ 3 := by rcases State.bpp_of_legal hw.config with h | h <;> omega
  have hrunLen (n : BitVec 32) : n.toNat * s.bpp ≤ 2 ^ 32 * 3 := Nat.mul_le_mul n.isLt.le hbpp
  refine ⟨by omega, by omega, fun hmode => ?_, fun hmode => ?_, fun n => ?_, fun t h => ?_⟩
  · obtain ⟨hpos, _, _⟩ := hw.reader hmode
    have hslen : s.streamLen < 2 ^ 32 := s.cfgSlen.isLt
    unfold State.bitPos
    omega
  · have := hw.olen_lt hmode
    omega
  · have := hrunLen n
    omega
  · obtain ⟨u, hu, hend⟩ := step_works hrun h
    refine ⟨fun hmode => ?_, ?_, ?_⟩
    · exact hend.olen_le.trans_lt ((hu.keepsInv hrun hi).olen_lt (hu.setup.cfgMode.trans hmode))
    · rw [hend.w]
      exact hu.w.imp_right fun h => by omega
    · rw [hend.src]
      exact hu.src.imp_right fun h => by omega

/-- Settles O43: no pass runs at reset, its memories are canonical and FAULTCODE is 0. -/
theorem invHoldsAtReset : Obligations.InvHoldsAtReset := by
  obtain ⟨hstream, hcanvas, hout⟩ := reset_memories_wf
  exact .of_not_running rfl hstream hcanvas hout (by decide)

end Sys2Proof.Machine
end

section
/-! SUPPORT. Which memory and registers belong to which engine (20_memory R60): the parts of the state that only the encoder
writes and those that only the decoder writes, and that the other engine leaves them alone. -/

namespace Sys2Proof.Machine

/-- OUT and the Bit Writer registers, written by the encoder alone (10_state R24, R28). -/
def State.encoderSide (s : State) : Memory × Nat × BitVec 8 × BitVec 3 := (s.out, s.olen, s.wAcc, s.wCnt)

/-- CANVAS, the Bit Reader registers, the transients of decoding and FAULTCODE, written by the decoder alone (10_state R23,
R26, R29, R32). -/
def State.decoderSide (s : State) :
    Memory × Nat × BitVec 3 × BitVec 7 × BitVec 4 × BitVec 1 × BitVec 3 × BitVec 32 × Nat × Nat × FaultCode :=
  (s.canvas, s.spos, s.bitCnt, s.bitBuf, s.opc, s.flag, s.slot, s.len, s.w, s.src, s.faultCode)

theorem State.encoderSide_eq_iff {s t : State} :
    t.encoderSide = s.encoderSide ↔ t.out = s.out ∧ t.olen = s.olen ∧ t.wAcc = s.wAcc ∧ t.wCnt = s.wCnt := by
  simp [State.encoderSide]

theorem State.decoderSide_eq_iff {s t : State} :
    t.decoderSide = s.decoderSide ↔
      t.canvas = s.canvas ∧ t.spos = s.spos ∧ t.bitCnt = s.bitCnt ∧ t.bitBuf = s.bitBuf ∧ t.opc = s.opc ∧
      t.flag = s.flag ∧ t.slot = s.slot ∧ t.len = s.len ∧ t.w = s.w ∧ t.src = s.src ∧ t.faultCode = s.faultCode := by
  simp [State.decoderSide]

/-! ## The decoder leaves the encoder's side alone -/

/-- The end of a decode pass flushes nothing (43_decoder_ops R195). -/
theorem loopTest_encoderSide {s : State} (hmode : s.cfgMode = .decode) : (loopTest s).encoderSide = s.encoderSide := by
  rcases loopTest_cases s with ⟨e, _⟩ | ⟨e, _⟩ | ⟨e, _⟩ <;> rw [e]
  · rfl
  · rw [finish_decode (s := { s with phase := .mainLoop }) hmode]; rfl

theorem writeRaw_encoderSide {v : Byte} {s t : State} (hmode : s.cfgMode = .decode) (h : writeRaw v s = .next t) :
    t.encoderSide = s.encoderSide := by
  obtain ⟨_, rfl⟩ := writeRaw_next h
  exact loopTest_encoderSide hmode

theorem writePixel_encoderSide {value : Byte → Byte} {s t : State} (hmode : s.cfgMode = .decode)
    (h : writePixel value s = .next t) : t.encoderSide = s.encoderSide := by
  obtain ⟨_, _, rfl⟩ := writePixel_next h
  exact loopTest_encoderSide hmode

theorem copyRun_encoderSide {op : CopyOp} {n : BitVec 32} {s t : State} (hmode : s.cfgMode = .decode)
    (h : copyRun op n s = .next t) : t.encoderSide = s.encoderSide := by
  obtain ⟨_, _, ⟨_, rfl⟩ | ⟨_, _, rfl⟩⟩ := copyRun_next h
  · rfl
  · exact loopTest_encoderSide hmode

theorem Fetches.encoderSide {s t : State} (h : Fetches s t) : t.encoderSide = s.encoderSide := by
  obtain ⟨_, _, _, _, _, rfl⟩ := h.frame; rfl

theorem Fetches.cfgMode {s t : State} (h : Fetches s t) : t.cfgMode = s.cfgMode := by
  obtain ⟨_, _, _, _, _, rfl⟩ := h.frame; rfl

theorem Fetches.phase {s t : State} (h : Fetches s t) : t.phase = s.phase := by
  obtain ⟨_, _, _, _, _, rfl⟩ := h.frame; rfl

theorem decodeStep_encoderSide {s t : State} (hmode : s.cfgMode = .decode) (h : decodeStep s = .next t) :
    t.encoderSide = s.encoderSide := by
  rcases decodeStep_cases s with ⟨i, v, hf, e⟩ | ⟨v, hf, e⟩ <;> rw [e] at h
  · have hfetch := fetch_ok hf
    have hmode' := hfetch.cfgMode.trans hmode
    have hexec : t.encoderSide = v.encoderSide := by
      rcases fetch_instr hf with ⟨_, b, rfl⟩ | ⟨_, ⟨b, rfl⟩ | ⟨k, rfl⟩ | ⟨op, r, rfl⟩⟩
      · exact writeRaw_encoderSide hmode' h
      · exact writePixel_encoderSide hmode' h
      · exact writePixel_encoderSide (s := { v with slot := k }) hmode' h
      · exact copyRun_encoderSide hmode' (exec_copy op r v ▸ h)
    exact hexec.trans hfetch.encoderSide
  · cases h
    exact (fetch_error hf).encoderSide

/-! ## The encoder leaves the decoder's side alone -/

theorem loopTest_decoderSide (s : State) : (loopTest s).decoderSide = s.decoderSide := by simp [State.decoderSide]

/-- Written bits, and the dictionary and the cursor that go with them, are not on the decoder's side. -/
theorem Wrote.decoderSide {n : Nat} {s t : State} (h : Wrote n s t) (d : Dict) (c : Nat) :
    State.decoderSide { t with dict := d, cur := c } = s.decoderSide := by
  obtain ⟨_, _, _, _, rfl⟩ := h.frame; rfl

theorem emitPrefixByte_decoderSide (s : State) : (emitPrefixByte s).decoderSide = s.decoderSide := by
  unfold emitPrefixByte
  exact (writeBits_wrote _ 8 s).decoderSide _ _

theorem emitCopy_decoderSide {n : Nat} (op : CopyOp) (hn : 1 ≤ n) (s : State) :
    (emitCopy op n s).decoderSide = s.decoderSide := by
  obtain ⟨_, _, hw⟩ := emitCopy_wrote op hn s
  unfold emitCopy
  exact hw.decoderSide _ _

/-- A literal or dictionary emission records VAL and REF, which both engines write (44_encoder R227). -/
theorem emitPixel_decoderSide {s t : State} (h : emitPixel s = .ok t) : t.decoderSide = s.decoderSide := by
  obtain ⟨_, _, rfl⟩ := emitPixel_ok h
  obtain ⟨_, _, hw⟩ := emitPixelBits_wrote (find s.dict (s.canvasByte (s.cur - s.bpp)) (s.canvasByte s.cur))
    (s.canvasByte s.cur) { s with val := s.canvasByte s.cur, ref := s.canvasByte (s.cur - s.bpp) }
  exact hw.decoderSide _ _

theorem emitOperation_decoderSide {s t : State} (h : emitOperation s = .ok t) : t.decoderSide = s.decoderSide := by
  rcases emitOperation_cases s with ⟨op, n, _, hn, e⟩ | ⟨_, e⟩ <;> rw [e] at h
  · obtain rfl := Except.ok.inj h
    exact emitCopy_decoderSide op (by omega) s
  · exact emitPixel_decoderSide h

theorem encodeStep_decoderSide {s t : State} (h : encodeStep s = .next t) : t.decoderSide = s.decoderSide := by
  rcases encodeStep_cases s with ⟨_, e⟩ | ⟨_, u, hemit, e⟩ | ⟨_, f, _, e⟩ <;> rw [e] at h
  · obtain rfl := Host.Outcome.next.inj h
    exact (loopTest_decoderSide _).trans (emitPrefixByte_decoderSide s)
  · obtain rfl := Host.Outcome.next.inj h
    exact (loopTest_decoderSide _).trans (emitOperation_decoderSide hemit)
  · cases h

end Sys2Proof.Machine
end

section
/-! SUPPORT. Where the canvas accesses of an operation fall (20_memory R67): when each operation gives a next state, and that
the cursor invariant provides it. -/

namespace Sys2Proof.Machine

/-! ## When an operation gives a next state -/

theorem writeRaw_gives_next (v : Byte) {s : State} (h : s.cur < s.size) : ∃ t, writeRaw v s = .next t := by
  rcases storeCanvas_cases s.cur v { s with val := v } with ⟨hle, _⟩ | ⟨_, e⟩
  · exact absurd hle (Nat.not_le_of_lt h)
  · exact ⟨_, by rw [writeRaw, e]⟩

theorem writePixel_gives_next (value : Byte → Byte) {s : State} (hp : s.bpp ≤ s.cur) (h : s.cur < s.size) :
    ∃ t, writePixel value s = .next t := by
  have href := refByte_of_le hp ((Nat.sub_le _ _).trans_lt h)
  rcases storeCanvas_cases s.cur (value (s.canvasByte (s.cur - s.bpp)))
      { s with ref := s.canvasByte (s.cur - s.bpp), val := value (s.canvasByte (s.cur - s.bpp)) } with
    ⟨hle, _⟩ | ⟨_, e⟩
  · exact absurd hle (Nat.not_le_of_lt h)
  · simp only [writePixel, href, e]
    exact ⟨_, rfl⟩

/-- A copy whose source is not past the cursor overruns the canvas with its write or stays inside it altogether. -/
theorem copyRun_gives_next_of_source_le {op : CopyOp} (n : BitVec 32) {s : State} {src : Nat}
    (hsrc : sourceOffset op s.bpp s.lineBytes s.cur = some src) (hle : src ≤ s.cur) :
    ∃ t, copyRun op n s = .next t := by
  simp only [copyRun, hsrc]
  by_cases hover : s.size < s.cur + n.toNat * s.bpp
  · exact ⟨_, if_pos hover⟩
  · exact ⟨_, by rw [if_neg hover, if_neg (by omega)]⟩

theorem emitPixel_gives_ok {s : State} (hp : s.bpp ≤ s.cur) (h : s.cur < s.size) : ∃ t, emitPixel s = .ok t :=
  ⟨_, by rw [emitPixel, refByte_of_le hp ((Nat.sub_le _ _).trans_lt h)]⟩

/-! ## What the cursor invariant provides -/

/-- From the second pixel-group on, and with a line of at least one, every copy has its source at or behind the cursor
(43_decoder_ops R188 to R192). -/
theorem sourceOffset_le_cursor (op : CopyOp) {p l w : Nat} (hl : p ≤ l) (hw : 2 * p ≤ w) :
    ∃ src, sourceOffset op p l w = some src ∧ src ≤ w := by
  cases op with
  | cprev => exact ⟨w - p, if_pos (by omega), Nat.sub_le _ _⟩
  | cup | cupr | cupl | cprev2 => exact ⟨_, rfl, by split <;> omega⟩

/-- A line of a canvas that is not empty holds a pixel-group (10_state R21). -/
theorem State.bpp_le_lineBytes {s : State} (h : 0 < s.size) : s.bpp ≤ s.lineBytes := by
  have hpixels : 0 < s.cfgWidth.toNat * s.cfgHeight.toNat := Nat.pos_of_mul_pos_right h
  exact Nat.le_mul_of_pos_left _ (Nat.pos_of_mul_pos_right hpixels)

theorem State.Inv.cur_lt_of_litPrefix {s : State} (h : s.Inv) (hp : s.phase = .litPrefix) : s.cur < s.size :=
  (h.cursor.1 hp).trans_le s.prefixBytes_le_size

/-- In LOOP the cursor and its reference byte are offsets of the canvas (10_state R34). -/
theorem State.Inv.bounds_of_loop {s : State} (h : s.Inv) (hp : s.phase = .mainLoop) :
    s.bpp ≤ s.cur ∧ s.cur < s.size := by
  obtain ⟨hlt, hprod, _⟩ := h.cursor.2 hp
  exact ⟨by omega, hlt⟩

theorem State.Inv.copyRun_gives_next {s : State} (h : s.Inv) (hp : s.phase = .mainLoop) (op : CopyOp) (n : BitVec 32) :
    ∃ t, copyRun op n s = .next t := by
  obtain ⟨hlt, hprod, _⟩ := h.cursor.2 hp
  obtain ⟨src, hsrc, hle⟩ := sourceOffset_le_cursor op (State.bpp_le_lineBytes (Nat.zero_lt_of_lt hlt)) hprod
  exact copyRun_gives_next_of_source_le n hsrc hle

/-- A step of the decoder engine executes what it fetched, or enters FAULT, which is a next state too. -/
theorem State.Inv.decodeStep_gives_next {s : State} (h : s.Inv) (hrun : s.running = true) : ∃ t, decodeStep s = .next t := by
  rcases decodeStep_cases s with ⟨i, v, hf, e⟩ | ⟨v, _, e⟩ <;> rw [e]
  · have hfetch := fetch_ok hf
    have hv := hfetch.keepsInv h
    rcases fetch_instr hf with ⟨hp, b, rfl⟩ | ⟨hp, hinstr⟩
    · exact writeRaw_gives_next b (hv.cur_lt_of_litPrefix (hfetch.phase.trans hp))
    · have hloop := hfetch.phase.trans (State.mainLoop_of_running hrun hp)
      obtain ⟨hge, hlt⟩ := hv.bounds_of_loop hloop
      rcases hinstr with ⟨b, rfl⟩ | ⟨k, rfl⟩ | ⟨op, r, rfl⟩
      · exact writePixel_gives_next _ hge hlt
      · exact writePixel_gives_next (s := { v with slot := k }) _ hge hlt
      · exact exec_copy op r v ▸ hv.copyRun_gives_next hloop op (runLen r)
  · exact ⟨_, rfl⟩

/-- The encoder raises no fault (44_encoder R229): a pixel it emits has its reference byte on the canvas. -/
theorem State.Inv.encodeStep_gives_next {s : State} (h : s.Inv) (hrun : s.running = true) : ∃ t, encodeStep s = .next t := by
  rcases encodeStep_cases s with ⟨_, e⟩ | ⟨_, t, _, e⟩ | ⟨hp, f, hemit, _⟩
  · exact ⟨_, e⟩
  · exact ⟨_, e⟩
  · rcases emitOperation_cases s with ⟨op, n, _, _, e⟩ | ⟨_, e⟩ <;> rw [e] at hemit
    · cases hemit
    · obtain ⟨hge, hlt⟩ := h.bounds_of_loop (State.mainLoop_of_running hrun hp)
      obtain ⟨t, ht⟩ := emitPixel_gives_ok hge hlt
      cases ht.symm.trans hemit

end Sys2Proof.Machine
end

section
/-! PROOFS. The obligations about the memories of the machine (20_memory). -/

namespace Sys2Proof.Machine

/-- Settles O45: the cursor invariant puts every canvas access of either engine inside the canvas. -/
theorem invStepsNeverStop : Obligations.InvStepsNeverStop := by
  intro s h
  have hdrop := dropStart_inv h
  rcases step_cases s with ⟨hrun, _, _, e⟩ | ⟨hrun, _, _, e⟩ | ⟨_, _, e⟩ | ⟨_, e⟩ <;> rw [e]
  · exact hdrop.decodeStep_gives_next hrun
  · exact hdrop.encodeStep_gives_next hrun
  · exact ⟨_, rfl⟩
  · exact ⟨_, rfl⟩

/-- Settles O40, by the frames of the two engines and of the loop tests. -/
theorem enginesKeepToTheirMemories : Obligations.EnginesKeepToTheirMemories := by
  intro s t hrun h
  rw [← State.encoderSide_eq_iff, ← State.decoderSide_eq_iff]
  rcases step_cases s with ⟨_, _, hdec, e⟩ | ⟨_, _, henc, e⟩ | ⟨_, _, e⟩ | ⟨hidle, _⟩
  · exact ⟨fun _ => decodeStep_encoderSide (s := dropStart s) hdec (e ▸ h), fun hm => by cases hdec.symm.trans hm⟩
  · exact ⟨fun hm => (by cases henc.symm.trans hm), fun _ => encodeStep_decoderSide (s := dropStart s) (e ▸ h)⟩
  · cases e.symm.trans h
    exact ⟨fun hm => loopTest_encoderSide (s := dropStart s) hm, fun _ => loopTest_decoderSide (dropStart s)⟩
  · simp [hrun] at hidle

end Sys2Proof.Machine
end

section
/-! SUPPORT. The operations by family: every copy is `Instr.copy` of its opcode and its run count, and its part, its
constraint and its encoding are those of the two (30_encoding R97, R105). -/

namespace Sys2Proof

/-- A proof about every operation needs one case per family: RAW, LIT, DIC and the copies. -/
theorem Instr.familyCases {motive : Instr → Prop} (raw : ∀ v, motive (.raw v)) (lit : ∀ v, motive (.lit v))
    (dic : ∀ k, motive (.dic k)) (copy : ∀ op r, motive (.copy op r)) (i : Instr) : motive i := by
  cases i with
  | raw v => exact raw v
  | lit v => exact lit v
  | dic k => exact dic k
  | cprevV2 a => exact copy .cprev (.v2 a)
  | cprevV6 b => exact copy .cprev (.v6 b)
  | cprevV14 c => exact copy .cprev (.v14 c)
  | cprevV30 d => exact copy .cprev (.v30 d)
  | cprevV62 h l => exact copy .cprev (.v62 h l)
  | cupV2 a => exact copy .cup (.v2 a)
  | cupV6 b => exact copy .cup (.v6 b)
  | cupV14 c => exact copy .cup (.v14 c)
  | cupV30 d => exact copy .cup (.v30 d)
  | cupV62 h l => exact copy .cup (.v62 h l)
  | cuprV2 a => exact copy .cupr (.v2 a)
  | cuprV6 b => exact copy .cupr (.v6 b)
  | cuprV14 c => exact copy .cupr (.v14 c)
  | cuprV30 d => exact copy .cupr (.v30 d)
  | cuprV62 h l => exact copy .cupr (.v62 h l)
  | cuplV2 a => exact copy .cupl (.v2 a)
  | cuplV6 b => exact copy .cupl (.v6 b)
  | cuplV14 c => exact copy .cupl (.v14 c)
  | cuplV30 d => exact copy .cupl (.v30 d)
  | cuplV62 h l => exact copy .cupl (.v62 h l)
  | cprev2V2 a => exact copy .cprev2 (.v2 a)
  | cprev2V6 b => exact copy .cprev2 (.v6 b)
  | cprev2V14 c => exact copy .cprev2 (.v14 c)
  | cprev2V30 d => exact copy .cprev2 (.v30 d)
  | cprev2V62 h l => exact copy .cprev2 (.v62 h l)

@[simp] theorem Instr.part_copy (op : CopyOp) (r : Run) : (Instr.copy op r).part = .operations := by
  cases op <;> cases r <;> rfl

@[simp] theorem Instr.wellFormed_copy (op : CopyOp) (r : Run) : (Instr.copy op r).wellFormed = r.wellFormed := by
  cases op <;> cases r <;> rfl

/-! ## Encodings as fields of the widths that the decoder reads (30_encoding R92) -/

theorem encode_raw (v : Byte) : encode (.raw v) = field v := rfl

theorem encode_lit (v : Byte) : encode (.lit v) = field (0 : BitVec 1) ++ (field (1 : BitVec 1) ++ field v) := rfl

theorem encode_dic (k : BitVec 3) : encode (.dic k) = field (0 : BitVec 1) ++ (field (0 : BitVec 1) ++ field k) := rfl

theorem encode_copy (op : CopyOp) (r : Run) : encode (.copy op r) = op.bits ++ r.bits := by
  cases op <;> cases r <;> rfl

theorem bits_cprev : CopyOp.cprev.bits = field (1 : BitVec 1) ++ field (0 : BitVec 1) := rfl

theorem bits_longCopyOp (t : BitVec 2) :
    (longCopyOp t).bits = field (1 : BitVec 1) ++ (field (1 : BitVec 1) ++ field t) := by
  revert t; decide

/-- A copy opcode is CPREV or one of the four opcodes of four bits (30_encoding R91). -/
theorem CopyOp.cprev_or_long (op : CopyOp) : op = .cprev ∨ ∃ t, op = longCopyOp t := by
  cases op with
  | cprev => exact .inl rfl
  | cup => exact .inr ⟨0, rfl⟩
  | cupr => exact .inr ⟨1, rfl⟩
  | cupl => exact .inr ⟨2, rfl⟩
  | cprev2 => exact .inr ⟨3, rfl⟩

/-! ## Bits read as a number and written again -/

theorem bitsToNat_lt (bits : List Bool) : bitsToNat bits < 2 ^ bits.length := by
  induction bits with
  | nil => simp [bitsToNat]
  | cons b bits ih =>
    rw [bitsToNat_cons, List.length_cons, Nat.pow_succ]
    have := Nat.mul_le_mul_right (2 ^ bits.length) b.toNat_le
    omega

theorem natBits_mod (n v : Nat) {m : Nat} (h : n ≤ m) : natBits n (v % 2 ^ m) = natBits n v := by
  induction n with
  | zero => rfl
  | succ n ih =>
    rw [natBits, natBits, ih (by omega), Nat.testBit_mod_two_pow, decide_eq_true (by omega : n < m), Bool.true_and]

/-- Reading bits as a number and writing the number back gives the bits. -/
theorem natBits_bitsToNat (bits : List Bool) : natBits bits.length (bitsToNat bits) = bits := by
  induction bits with
  | nil => rfl
  | cons b bits ih =>
    have hlow : (b.toNat * 2 ^ bits.length + bitsToNat bits) % 2 ^ bits.length = bitsToNat bits := by
      rw [Nat.mul_add_mod_self_right, Nat.mod_eq_of_lt (bitsToNat_lt bits)]
    have htop : (b.toNat * 2 ^ bits.length + bitsToNat bits).testBit bits.length = b := by
      rw [Nat.mul_comm, Nat.testBit_two_pow_mul_add _ (bitsToNat_lt bits)]
      cases b <;> simp
    rw [List.length_cons, bitsToNat_cons, natBits, htop, ← natBits_mod _ _ le_rfl, hlow, ih]

theorem field_bitsToNat {n : Nat} {bits : List Bool} (h : bits.length = n) :
    field (BitVec.ofNat n (bitsToNat bits)) = bits := by
  subst h
  rw [field, BitVec.toNat_ofNat, Nat.mod_eq_of_lt (bitsToNat_lt bits), natBits_bitsToNat]

end Sys2Proof
end

section
/-! SUPPORT. The decoder reads back what the encoder spells, from every source of bits (30_encoding R92): the decoder is
written once over any source, and so is this. -/

namespace Sys2Proof

/-- The reading succeeds with the value `a`, and the source after it satisfies `P`. -/
def Reading.Gives {σ α : Type} (r : Reading σ α) (a : α) (P : σ → Prop) : Prop := ∃ t, r = .ok (a, t) ∧ P t

theorem Reading.Gives.andThen {σ α β : Type} {r : Reading σ α} {a : α} {P : σ → Prop} {k : α → σ → Reading σ β} {b : β}
    {Q : σ → Prop} (hr : r.Gives a P) (hk : ∀ t, P t → (k a t).Gives b Q) : (r.andThen k).Gives b Q := by
  obtain ⟨t, rfl, ht⟩ := hr
  exact hk t ht

/-- The source after such a reading satisfies `P`. -/
theorem Reading.Gives.holds {σ α : Type} {r : Reading σ α} {a b : α} {P : σ → Prop} {t : σ} (h : r.Gives a P)
    (e : r = .ok (b, t)) : P t := by
  obtain ⟨u, e', hu⟩ := h
  cases e'.symm.trans e
  exact hu

/-- `R o f bits s` says that the source `s` has `bits` before it and holds `o` in OPC and `f` in FLAG, and the reads and the
register writes of `src` do to `s` what they should: a field at the head of the bits is read and passed. -/
structure BitSource.Follows {σ : Type} (src : BitSource σ) (R : BitVec 4 → BitVec 1 → List Bool → σ → Prop) : Prop where
  read : ∀ {o f bits s} n h (v : BitVec n), R o f (field v ++ bits) s → (src.read n h s).Gives v (R o f bits)
  setOpc : ∀ {o f bits s} c, R o f bits s → R c f bits (src.setOpc c s)
  setFlag : ∀ {o f bits s} g, R o f bits s → R o g bits (src.setFlag g s)

/-- A list of bits is a source of itself; it has no registers. -/
theorem listSource_follows : listSource.Follows fun _ _ bits s => s = bits where
  read n h v e := ⟨_, by rw [e]; exact listSource_read_field v h _, rfl⟩
  setOpc _ e := e
  setFlag _ e := e

section
variable {σ : Type} {src : BitSource σ} {R : BitVec 4 → BitVec 1 → List Bool → σ → Prop}
variable {o : BitVec 4} {f : BitVec 1} {bits : List Bool} {s : σ}

namespace BitSource.Follows

/-- A field at the head of the bits is read, and reading goes on with it. -/
theorem readThen (h : src.Follows R) {n : Nat} {hn : ReadWidth n} {v : BitVec n} {β : Type} {k : BitVec n → σ → Reading σ β}
    {b : β} {Q : σ → Prop} (hs : R o f (field v ++ bits) s) (hk : ∀ t, R o f bits t → (k v t).Gives b Q) :
    ((src.read n hn s).andThen k).Gives b Q :=
  (h.read n hn v hs).andThen hk

/-- A varint form whose field is not zero ends the varint (30_encoding R98). -/
theorem readForm (h : src.Follows R) {n : Nat} {hn : ReadWidth n} {v : BitVec n} (hv : v ≠ 0) {form : BitVec n → Run}
    {k : σ → Reading σ Run} (hs : R o f (field v ++ bits) s) :
    ((src.read n hn s).andThen fun a s => if a ≠ 0 then .ok (form a, s) else k s).Gives (form v) (R o f bits) :=
  h.readThen hs fun t ht => by rw [if_pos hv]; exact ⟨t, rfl, ht⟩

/-- A zero field is the escape to the next longer form (30_encoding R98). -/
theorem readEscape (h : src.Follows R) {n : Nat} {hn : ReadWidth n} {form : BitVec n → Run} {k : σ → Reading σ Run} {r : Run}
    {Q : σ → Prop} (hs : R o f (field (0 : BitVec n) ++ bits) s) (hk : ∀ t, R o f bits t → (k t).Gives r Q) :
    ((src.read n hn s).andThen fun a s => if a ≠ 0 then .ok (form a, s) else k s).Gives r Q :=
  h.readThen hs fun t ht => by rw [if_neg (not_not_intro rfl)]; exact hk t ht

end BitSource.Follows

theorem decodeRun_gives (h : src.Follows R) {r : Run} (hr : r.wellFormed = true) (hs : R o f (r.bits ++ bits) s) :
    (decodeRun src s).Gives r (R o f bits) := by
  cases r <;> simp only [Run.bits, List.append_assoc] at hs <;> simp only [Run.wellFormed, bne_iff_ne] at hr
  case v2 a => exact h.readForm hr hs
  case v6 b => exact h.readEscape hs fun _ hs => h.readForm hr hs
  case v14 c => exact h.readEscape hs fun _ hs => h.readEscape hs fun _ hs => h.readForm hr hs
  case v30 d =>
    exact h.readEscape hs fun _ hs => h.readEscape hs fun _ hs => h.readEscape hs fun _ hs => h.readForm hr hs
  case v62 a b =>
    exact h.readEscape hs fun _ hs => h.readEscape hs fun _ hs => h.readEscape hs fun _ hs => h.readEscape hs fun _ hs =>
      h.readThen hs fun _ hs => h.readThen hs fun t ht => ⟨t, rfl, ht⟩

theorem decodeCopy_gives (h : src.Follows R) (op : CopyOp) {r : Run} (hr : r.wellFormed = true)
    (hs : R o f (r.bits ++ bits) s) : (decodeCopy src op s).Gives (.copy op r) (R op.opcode f bits) :=
  (decodeRun_gives h hr (h.setOpc op.opcode hs)).andThen fun t ht => ⟨t, rfl, ht⟩

/-! ## The families: the operation read, and OPC and FLAG after it (30_encoding R92, 43_decoder_ops R184) -/

theorem decodeRaw_gives (h : src.Follows R) {v : Byte} (hs : R o f (encode (.raw v) ++ bits) s) :
    (decodeRaw src s).Gives (.raw v) (R o f bits) :=
  h.readThen hs fun t ht => ⟨t, rfl, ht⟩

theorem decodeOp_gives_lit (h : src.Follows R) {v : Byte} (hs : R o f (encode (.lit v) ++ bits) s) :
    (decodeOp src s).Gives (.lit v) (R 0 1 bits) := by
  simp only [encode_lit, List.append_assoc] at hs
  exact h.readThen hs fun _ hs => h.readThen (h.setOpc 0 hs) fun _ hs =>
    h.readThen (h.setFlag 1 hs) fun t ht => ⟨t, rfl, ht⟩

theorem decodeOp_gives_dic (h : src.Follows R) {k : BitVec 3} (hs : R o f (encode (.dic k) ++ bits) s) :
    (decodeOp src s).Gives (.dic k) (R 0 0 bits) := by
  simp only [encode_dic, List.append_assoc] at hs
  exact h.readThen hs fun _ hs => h.readThen (h.setOpc 0 hs) fun _ hs =>
    h.readThen (h.setFlag 0 hs) fun t ht => ⟨t, rfl, ht⟩

theorem decodeOp_gives_copy (h : src.Follows R) {op : CopyOp} {r : Run} (hr : r.wellFormed = true)
    (hs : R o f (encode (.copy op r) ++ bits) s) : (decodeOp src s).Gives (.copy op r) (R op.opcode f bits) := by
  rw [encode_copy] at hs
  rcases op.cprev_or_long with rfl | ⟨t, rfl⟩
  · simp only [bits_cprev, List.append_assoc] at hs
    exact h.readThen hs fun _ hs => h.readThen hs fun _ hs => decodeCopy_gives h .cprev hr hs
  · simp only [bits_longCopyOp, List.append_assoc] at hs
    exact h.readThen hs fun _ hs => h.readThen hs fun _ hs => h.readThen hs fun _ hs =>
      decodeCopy_gives h (longCopyOp t) hr hs

/-- In its part of the stream every well-formed operation is read back from its encoding. -/
theorem decodePart_gives (h : src.Follows R) {i : Instr} (hi : WellFormed i) (hs : R o f (encode i ++ bits) s) :
    ∃ o' f', (decodePart src i.part s).Gives i (R o' f' bits) := by
  cases i using Instr.familyCases with
  | raw v => exact ⟨_, _, decodeRaw_gives h hs⟩
  | lit v => exact ⟨_, _, decodeOp_gives_lit h hs⟩
  | dic k => exact ⟨_, _, decodeOp_gives_dic h hs⟩
  | copy op r =>
    rw [WellFormed, Instr.wellFormed_copy] at hi
    rw [Instr.part_copy]
    exact ⟨_, _, decodeOp_gives_copy h hi hs⟩

end

end Sys2Proof
end

section
/-! SUPPORT. What the decoder can do on a list of bits (30_encoding R92, R100): it reads an operation that the bits it
consumed spell, or the list is shorter than the longest operation. -/

namespace Sys2Proof

/-- What a reading of `bits` can do: read a value from a head of `bits` that spells it in the sense of `S`, leaving the rest;
or run out of bits, `bits` being fewer than `n`. -/
def Reading.Accounts {α : Type} (r : Reading (List Bool) α) (bits : List Bool) (n : Nat) (S : α → List Bool → Prop) : Prop :=
  match r with
  | .ok (a, rest) => ∃ w, bits = w ++ rest ∧ S a w
  | .error _ => bits.length < n

namespace Reading.Accounts

variable {α β : Type} {bits : List Bool} {S : α → List Bool → Prop} {T : β → List Bool → Prop}

theorem done {n : Nat} {a : α} (h : S a []) : Reading.Accounts (.ok (a, bits)) bits n S := ⟨[], rfl, h⟩

/-- A field is read, and what is read after it spells the rest. -/
theorem readThen {n m : Nat} {h : ReadWidth n} {k : BitVec n → List Bool → Reading (List Bool) β}
    (hk : ∀ v rest, (k v rest).Accounts rest m fun b w => T b (field v ++ w)) :
    ((listSource.read n h bits).andThen k).Accounts bits (n + m) T := by
  rcases listSource_read n h bits with ⟨hlen, e⟩ | ⟨hlen, e⟩
  · rw [e]; exact Nat.lt_add_right m hlen
  · rw [e, Reading.andThen_ok]
    have hsplit : bits = field (BitVec.ofNat n (bitsToNat (bits.take n))) ++ bits.drop n := by
      rw [field_bitsToNat (List.length_take_of_le hlen), List.take_append_drop]
    have hrest := hk (BitVec.ofNat n (bitsToNat (bits.take n))) (bits.drop n)
    revert hrest
    rcases k _ (bits.drop n) with _ | ⟨b, rest⟩
    · intro hshort
      have : (bits.drop n).length < m := hshort
      rw [List.length_drop] at this
      change bits.length < n + m
      omega
    · rintro ⟨w, hw, hb⟩
      exact ⟨_, by rw [List.append_assoc, ← hw]; exact hsplit, hb⟩

/-- A varint form is read, or its zero field is passed and the next longer form is tried (30_encoding R98). -/
theorem readForm {n m : Nat} {h : ReadWidth n} {form : BitVec n → Run} {k : List Bool → Reading (List Bool) Run}
    {T : Run → List Bool → Prop} (hform : ∀ v, v ≠ 0 → T (form v) (field v))
    (hk : ∀ rest, (k rest).Accounts rest m fun r w => T r (field (0 : BitVec n) ++ w)) :
    ((listSource.read n h bits).andThen fun a s => if a ≠ 0 then .ok (form a, s) else k s).Accounts bits (n + m) T := by
  refine readThen fun v rest => ?_
  by_cases hv : v = 0
  · rw [if_neg (not_not_intro hv), hv]
    exact hk rest
  · rw [if_pos hv]
    exact done (by rw [List.append_nil]; exact hform v hv)

/-- What is read is rebuilt into another value, which the same bits spell. -/
theorem map {r : Reading (List Bool) α} {n m : Nat} {g : α → β} (hr : r.Accounts bits n S) (hn : n ≤ m)
    (hg : ∀ a w, S a w → T (g a) w) : (r.andThen fun a s => .ok (g a, s)).Accounts bits m T := by
  match r, hr with
  | .ok (a, rest), ⟨w, hw, ha⟩ => exact ⟨w, hw, hg a w ha⟩
  | .error _, hr => exact Nat.lt_of_lt_of_le hr hn

end Reading.Accounts

open Reading.Accounts

/-- `r` is a well-formed run count and `w` its bits. -/
def Run.SpelledBy (r : Run) (w : List Bool) : Prop := r.wellFormed = true ∧ w = r.bits

/-- `i` is a well-formed operation of the given part, and `w` its encoding. -/
def Instr.SpelledBy (part : StreamPart) (i : Instr) (w : List Bool) : Prop :=
  WellFormed i ∧ i.part = part ∧ w = encode i

theorem Run.SpelledBy.copy {op : CopyOp} {r : Run} {w : List Bool} (h : r.SpelledBy w) :
    (Instr.copy op r).SpelledBy .operations (op.bits ++ w) := by
  obtain ⟨hr, rfl⟩ := h
  exact ⟨by rwa [WellFormed, Instr.wellFormed_copy], Instr.part_copy op r, (encode_copy op r).symm⟩

/-- The longest varint has 62 bits: the zero fields of the shorter forms and the two halves of `V62` (30_encoding R98). -/
theorem decodeRun_accounts (bits : List Bool) : (decodeRun listSource bits).Accounts bits 62 Run.SpelledBy := by
  refine readForm (m := 60) (fun a ha => ⟨by simpa [Run.wellFormed], rfl⟩) fun _ => ?_
  refine readForm (m := 56) (fun b hb => ⟨by simpa [Run.wellFormed], rfl⟩) fun _ => ?_
  refine readForm (m := 48) (fun c hc => ⟨by simpa [Run.wellFormed], by simp [Run.bits]⟩) fun _ => ?_
  refine readForm (m := 32) (fun d hd => ⟨by simpa [Run.wellFormed], by simp [Run.bits]⟩) fun _ => ?_
  exact readThen (m := 16) fun h _ => readThen (m := 0) fun l _ => done ⟨rfl, by simp [Run.bits]⟩

theorem decodeCopy_accounts (op : CopyOp) (bits : List Bool) {n : Nat} (hn : 62 ≤ n) :
    (decodeCopy listSource op bits).Accounts bits n fun i w => i.SpelledBy .operations (op.bits ++ w) :=
  (decodeRun_accounts bits).map hn fun _ _ h => h.copy

theorem decodeOp_accounts (bits : List Bool) :
    (decodeOp listSource bits).Accounts bits longestOp (Instr.SpelledBy .operations) := by
  refine readThen (n := 1) (m := 65) fun b bits => ?_
  split
  case isTrue hb =>
    subst hb
    refine readThen (n := 1) (m := 64) fun g bits => ?_
    dsimp only
    split
    case isTrue hg => subst hg; exact readThen (m := 56) fun v _ => done ⟨rfl, rfl, by simp [encode_lit]⟩
    case isFalse hg =>
      obtain rfl : g = 0 := by bv_omega
      exact readThen (m := 61) fun k _ => done ⟨rfl, rfl, by simp [encode_dic]⟩
  case isFalse hb =>
    obtain rfl : b = 1 := by bv_omega
    refine readThen (n := 1) (m := 64) fun c bits => ?_
    split
    case isTrue hc =>
      subst hc
      exact decodeCopy_accounts .cprev bits (by decide)
    case isFalse hc =>
      obtain rfl : c = 1 := by bv_omega
      refine readThen (n := 2) (m := 62) fun t bits => ?_
      have h := decodeCopy_accounts (longCopyOp t) bits le_rfl
      rw [bits_longCopyOp] at h
      exact h

theorem decodePart_accounts (part : StreamPart) (bits : List Bool) :
    (decodePart listSource part bits).Accounts bits longestOp (Instr.SpelledBy part) := by
  cases part with
  | rawBytes => exact readThen (n := 8) (m := 58) fun v _ => done ⟨rfl, rfl, by simp [encode_raw]⟩
  | operations => exact decodeOp_accounts bits

/-! ## `decode` -/

theorem decode_eq_ok_iff {part : StreamPart} {bits rest : List Bool} {i : Instr} :
    decode part bits = .ok (i, rest) ↔ decodePart listSource part bits = .ok (i, rest) := by
  unfold decode
  cases decodePart listSource part bits <;> simp

/-- An operation is read back from its encoding, whatever follows. -/
theorem decode_encode_append {i : Instr} (hi : WellFormed i) (rest : List Bool) :
    decode i.part (encode i ++ rest) = .ok (i, rest) := by
  obtain ⟨_, _, t, e, rfl⟩ := decodePart_gives (o := 0) (f := 0) listSource_follows hi rfl
  exact decode_eq_ok_iff.2 e

/-- What is read is spelled by the bits consumed. -/
theorem spelledBy_of_decode {part : StreamPart} {bits rest : List Bool} {i : Instr} (h : decode part bits = .ok (i, rest)) :
    WellFormed i ∧ i.part = part ∧ bits = encode i ++ rest := by
  have hacc := decodePart_accounts part bits
  rw [decode_eq_ok_iff.1 h] at hacc
  obtain ⟨_, rfl, hi, hpart, rfl⟩ := hacc
  exact ⟨hi, hpart, rfl⟩

theorem decode_total {part : StreamPart} {bits : List Bool} (h : longestOp ≤ bits.length) :
    ∃ i rest, decode part bits = .ok (i, rest) := by
  have hacc := decodePart_accounts part bits
  match e : decodePart listSource part bits with
  | .ok (i, rest) => exact ⟨i, rest, decode_eq_ok_iff.2 e⟩
  | .error _ =>
    rw [e] at hacc
    exact absurd hacc (Nat.not_lt_of_le h)

end Sys2Proof
end

section
/-! SUPPORT. The run count of each varint form as a number (30_encoding R98, R101, R102). -/

namespace Sys2Proof.Machine

theorem toNat_runLen_v2 (a : BitVec 2) : (runLen (.v2 a)).toNat = a.toNat := by
  simp only [runLen, lenV2]; bv_omega

theorem toNat_runLen_v6 (b : BitVec 4) : (runLen (.v6 b)).toNat = b.toNat + 3 := by
  simp only [runLen, lenV6]; bv_omega

theorem toNat_runLen_v14 (c : BitVec 8) : (runLen (.v14 c)).toNat = c.toNat := by
  simp only [runLen, lenV14]; bv_omega

theorem toNat_runLen_v30 (d : BitVec 16) : (runLen (.v30 d)).toNat = d.toNat := by
  simp only [runLen, lenV30]; bv_omega

theorem toNat_runLen_v62 (h l : BitVec 16) : (runLen (.v62 h l)).toNat = h.toNat * 65536 + l.toNat := by
  rw [runLen, lenV62, BitVec.toNat_append, ← Nat.shiftLeft_add_eq_or_of_lt l.isLt, Nat.shiftLeft_eq]

/-- The number 0 has one spelling among the well-formed forms (30_encoding R102). -/
theorem runLen_eq_zero_iff {r : Run} (hr : r.wellFormed = true) : runLen r = 0 ↔ r = .v62 0 0 := by
  have hzero : runLen r = 0 ↔ (runLen r).toNat = 0 := by rw [← BitVec.toNat_inj]; rfl
  rw [hzero]
  cases r <;> simp only [Run.wellFormed, bne_iff_ne] at hr
  case v2 a => rw [toNat_runLen_v2]; simp only [reduceCtorEq, iff_false]; bv_omega
  case v6 b => rw [toNat_runLen_v6]; simp
  case v14 c => rw [toNat_runLen_v14]; simp only [reduceCtorEq, iff_false]; bv_omega
  case v30 d => rw [toNat_runLen_v30]; simp only [reduceCtorEq, iff_false]; bv_omega
  case v62 h l => rw [toNat_runLen_v62]; simp only [Run.v62.injEq]; bv_omega

end Sys2Proof.Machine
end

section
/-! SUPPORT. The Bit Reader reads the stream bits at BP (40_bit_primitives R120, R121), so that it is a source of bits as a
list of them is. -/

namespace Sys2Proof.Machine

@[simp] theorem length_streamBits (s : State) (k n : Nat) : (s.streamBits k n).length = n := by
  induction n generalizing k with
  | zero => rfl
  | succ n ih => simp [State.streamBits, ih]

theorem streamBits_congr {s t : State} (h : t.stream = s.stream) (k n : Nat) : t.streamBits k n = s.streamBits k n := by
  induction n generalizing k with
  | zero => rfl
  | succ n ih => rw [State.streamBits, State.streamBits, ih, State.streamBit, State.streamBit, State.streamByte,
    State.streamByte, h]

theorem remainingBits_congr {s t : State} (hstream : t.stream = s.stream) (hlen : t.streamLen = s.streamLen)
    (hpos : t.bitPos = s.bitPos) : t.remainingBits = s.remainingBits := by
  rw [State.remainingBits, State.remainingBits, streamBits_congr hstream, hlen, hpos]

theorem streamBits_add (s : State) (k m n : Nat) :
    s.streamBits k (m + n) = s.streamBits k m ++ s.streamBits (k + m) n := by
  induction m generalizing k with
  | zero => simp [State.streamBits]
  | succ m ih => rw [Nat.succ_add, State.streamBits, ih, State.streamBits, Nat.succ_add_eq_add_succ]; rfl

/-- The last `n` bits of a stream byte, in stream order, are the low `n` bits of its value (20_memory R61). -/
theorem streamBits_low (s : State) (a : Nat) {n : Nat} (hn : n ≤ 8) :
    s.streamBits (8 * a + (8 - n)) n = natBits n (s.streamByte a).toNat := by
  induction n with
  | zero => rfl
  | succ n ih =>
    have hbit : s.streamBit (8 * a + (8 - (n + 1))) = (s.streamByte a).toNat.testBit n := by
      rw [State.streamBit, show (8 * a + (8 - (n + 1))) / 8 = a by omega,
        show 7 - (8 * a + (8 - (n + 1))) % 8 = n by omega]
      rfl
    rw [State.streamBits, hbit, show 8 * a + (8 - (n + 1)) + 1 = 8 * a + (8 - n) by omega, ih (by omega), natBits]

theorem streamBits_byte (s : State) (a : Nat) : s.streamBits (8 * a) 8 = field (s.streamByte a) :=
  streamBits_low s a le_rfl

/-- The accumulator of `readBits` holds the `cnt` stream bits before byte `spos`, the first of them bit number `k`. -/
structure AccReads (s : State) (k acc cnt spos : Nat) : Prop where
  ends : k + cnt = 8 * spos
  value : acc = bitsToNat (s.streamBits k cnt)

/-- The registers hold the bits from BP to the end of a byte (10_state R26, R27). -/
theorem State.readerOk.accReads {s : State} (h : s.readerOk) :
    AccReads s s.bitPos s.bitBuf.toNat s.bitCnt.toNat s.spos := by
  obtain ⟨_, hcnt, hbuf⟩ := h
  have hlt := s.bitCnt.isLt
  refine ⟨Nat.sub_add_cancel hcnt, ?_⟩
  by_cases hzero : s.bitCnt.toNat = 0
  · rw [hbuf, hzero, pow_zero, Nat.mod_one]; rfl
  · have hpos : s.bitPos = 8 * (s.spos - 1) + (8 - s.bitCnt.toNat) := by unfold State.bitPos; omega
    rw [hpos, streamBits_low s _ (by omega), bitsToNat_natBits, hbuf]

/-- One refill merges in the next stream byte. -/
theorem AccReads.merge {s : State} {k acc cnt spos : Nat} (h : AccReads s k acc cnt spos) :
    AccReads s k (acc <<< 8 ||| (s.streamByte spos).toNat) (cnt + 8) (spos + 1) := by
  obtain ⟨hends, hvalue⟩ := h
  refine ⟨by omega, ?_⟩
  rw [streamBits_add, hends, streamBits_byte, bitsToNat_append, ← hvalue, field, bitsToNat_natBits, length_natBits,
    Nat.mod_eq_of_lt (s.streamByte spos).isLt, ← Nat.shiftLeft_add_eq_or_of_lt (s.streamByte spos).isLt, Nat.shiftLeft_eq]

/-- The refill loop fetches at least the bits asked for, and keeps what the accumulator reads. -/
theorem refill_accReads {s : State} {n fuel k acc cnt spos acc' cnt' spos' : Nat}
    (h : refill s n fuel acc cnt spos = (acc', cnt', spos')) (hfuel : n ≤ cnt + 8 * fuel)
    (hacc : AccReads s k acc cnt spos) : n ≤ cnt' ∧ AccReads s k acc' cnt' spos' := by
  induction fuel generalizing acc cnt spos with
  | zero => cases h; exact ⟨hfuel, hacc⟩
  | succ fuel ih =>
    rw [refill] at h
    split at h
    · exact ih h (by omega) hacc.merge
    · cases h; exact ⟨by omega, hacc⟩

/-- The first `n` bits that the accumulator reads are its high ones. -/
theorem AccReads.high {s : State} {k acc cnt spos n : Nat} (h : AccReads s k acc cnt spos) (hn : n ≤ cnt) :
    acc >>> (cnt - n) = bitsToNat (s.streamBits k n) := by
  obtain ⟨m, rfl⟩ := Nat.exists_eq_add_of_le hn
  have hlow := bitsToNat_lt (s.streamBits (k + n) m)
  rw [length_streamBits] at hlow
  rw [h.value, Nat.add_sub_cancel_left, streamBits_add, bitsToNat_append, length_streamBits, Nat.shiftRight_eq_div_pow,
    Nat.mul_comm, Nat.mul_add_div (by positivity), Nat.div_eq_of_lt hlow, Nat.add_zero]

/-- Where enough bits are left, the procedure of `readBits` gives the number they spell and moves BP past them
(40_bit_primitives R120, R121). -/
theorem takeBits_spec {n : Nat} {s : State} (h : s.readerOk) (hn : s.bitPos + n ≤ 8 * s.streamLen) :
    ∃ t, takeBits n s = .ok (BitVec.ofNat n (bitsToNat (s.streamBits s.bitPos n)), t) ∧ t.bitPos = s.bitPos + n ∧
      t.readerOk ∧ ∃ p c b, t = { s with spos := p, bitCnt := c, bitBuf := b } := by
  have hacc := h.accReads
  have hlt := s.bitCnt.isLt
  have hends := hacc.ends
  have henough : ¬ s.bitCnt.toNat + 8 * (s.streamLen - s.spos) < n := by omega
  generalize hr : refill s n n s.bitBuf.toNat s.bitCnt.toNat s.spos = r
  obtain ⟨acc, cnt, spos⟩ := r
  obtain ⟨hcnt, hacc'⟩ := refill_accReads hr (by omega) hacc
  obtain ⟨_, _, hmax, _⟩ := refill_spec s n hr fun k _ hk => by
    obtain ⟨_, _, hbuf⟩ := h
    rw [hbuf, Nat.mod_mod_of_dvd _ (Nat.pow_dvd_pow 2 hk)]
  have e : takeBits n s = .ok (BitVec.ofNat n (bitsToNat (s.streamBits s.bitPos n)),
      { s with spos := spos, bitCnt := BitVec.ofNat 3 (cnt - n), bitBuf := BitVec.ofNat 7 (acc % 2 ^ (cnt - n)) }) := by
    rw [takeBits, if_neg henough, hr, ← hacc'.high hcnt]
  refine ⟨_, e, ?_, takeBits_readerOk h e, _, _, _, rfl⟩
  have hends' := hacc'.ends
  simp only [State.bitPos, BitVec.toNat_ofNat] at hends' ⊢
  omega

/-- The machine has `bits` before it in the stream, and holds `o` in OPC and `f` in FLAG. -/
structure State.Stands (o : BitVec 4) (f : BitVec 1) (bits : List Bool) (s : State) : Prop where
  reader : s.readerOk
  bits : s.remainingBits = bits
  opc : s.opc = o
  flag : s.flag = f

theorem State.Stands.registers {o : BitVec 4} {f : BitVec 1} {bits : List Bool} {s : State} (h : s.Stands o f bits) :
    s.opc = o ∧ s.flag = f := ⟨h.opc, h.flag⟩

/-- BP never passes the end of the stream (10_state R27). -/
theorem State.readerOk.bitPos_le {s : State} (h : s.readerOk) : s.bitPos ≤ 8 * s.streamLen := by
  obtain ⟨hpos, _, _⟩ := h
  unfold State.bitPos
  omega

/-- BP and the bits before the machine make up the stream. -/
theorem State.Stands.bitPos_add_length {o : BitVec 4} {f : BitVec 1} {bits : List Bool} {s : State} (h : s.Stands o f bits) :
    s.bitPos + bits.length = 8 * s.streamLen := by
  rw [← h.bits, State.remainingBits, length_streamBits, Nat.add_sub_cancel' h.reader.bitPos_le]

/-- The Bit Reader is a source the decoder follows (20_memory R72, 40_bit_primitives R120). -/
theorem readerSource_follows : readerSource.Follows State.Stands where
  read {o f bits s} n _ v h := by
    have hlen := h.bitPos_add_length
    rw [List.length_append, length_field] at hlen
    obtain ⟨t, e, hpos, hreader, p, c, b, ht⟩ := takeBits_spec (n := n) h.reader (by omega)
    have hsplit : s.streamBits s.bitPos n ++ s.streamBits (s.bitPos + n) bits.length = field v ++ bits := by
      rw [← h.bits, State.remainingBits, ← streamBits_add]
      congr 1
      omega
    obtain ⟨hfield, hrest⟩ := List.append_inj hsplit (by simp)
    rw [hfield, ofNat_bitsToNat_field] at e
    refine ⟨t, e, hreader, ?_, by rw [ht]; exact h.opc, by rw [ht]; exact h.flag⟩
    have hstream : t.stream = s.stream := by rw [ht]
    have hslen : t.streamLen = s.streamLen := by rw [ht]; rfl
    rw [State.remainingBits, streamBits_congr hstream, hslen, hpos, ← hlen]
    rw [show s.bitPos + (n + bits.length) - (s.bitPos + n) = bits.length by omega, hrest]
  setOpc {_ _ _ s} c h :=
    have hbits := remainingBits_congr (s := s) (t := { s with opc := c }) rfl rfl rfl
    ⟨h.reader, hbits.trans h.bits, rfl, h.flag⟩
  setFlag {_ _ _ s} g h :=
    have hbits := remainingBits_congr (s := s) (t := { s with flag := g }) rfl rfl rfl
    ⟨h.reader, hbits.trans h.bits, h.opc, rfl⟩

end Sys2Proof.Machine
end

section
/-! SUPPORT. Bytes placed in STREAM are the bits before the machine (20_memory R61, 30_encoding R90). -/

namespace Sys2Proof

theorem bytesToBits_cons (v : Byte) (bytes : List Byte) : bytesToBits (v :: bytes) = field v ++ bytesToBits bytes := rfl

@[simp] theorem length_bitsToBytes (bits : List Bool) : (bitsToBytes bits).length = (bits.length + 7) / 8 := by
  simp [bitsToBytes]

/-- The bytes of a bit string are its first eight bits, completed with zeros where there are fewer, and the bytes of the
rest. -/
theorem bitsToBytes_of_ne_nil {bits : List Bool} (h : bits ≠ []) :
    bitsToBytes bits =
      BitVec.ofNat 8 (bitsToNat (bits.take 8 ++ List.replicate (8 - bits.length) false)) :: bitsToBytes (bits.drop 8) := by
  have hpos := List.length_pos_of_ne_nil h
  have hcount : (bits.length + 7) / 8 = ((bits.drop 8).length + 7) / 8 + 1 := by rw [List.length_drop]; omega
  simp only [bitsToBytes, hcount, List.range_succ_eq_map, List.map_cons, List.map_map, Nat.mul_zero, List.drop_zero,
    List.drop_drop]
  congr 1
  refine List.map_congr_left fun k _ => ?_
  simp only [Function.comp_apply, Nat.succ_eq_add_one, Nat.mul_succ, Nat.add_comm]

/-- The bits of the bytes of a bit string are that string, completed with zeros. -/
theorem bytesToBits_bitsToBytes (bits : List Bool) :
    ∃ pad, bytesToBits (bitsToBytes bits) = bits ++ List.replicate pad false := by
  induction hn : bits.length using Nat.strong_induction_on generalizing bits with
  | _ n ih =>
    subst hn
    by_cases hnil : bits = []
    · exact ⟨0, by rw [hnil]; rfl⟩
    · have hpos := List.length_pos_of_ne_nil hnil
      obtain ⟨pad, hpad⟩ := ih _ (by rw [List.length_drop]; omega) (bits.drop 8) rfl
      rw [bitsToBytes_of_ne_nil hnil, bytesToBits_cons, field_bitsToNat (by simp; omega), hpad]
      rcases Nat.lt_or_ge bits.length 8 with hshort | hlong
      · refine ⟨8 - bits.length + pad, ?_⟩
        rw [List.take_of_length_le hshort.le, List.drop_of_length_le hshort.le, List.nil_append, List.append_assoc,
          List.replicate_append_replicate]
      · refine ⟨pad, ?_⟩
        rw [Nat.sub_eq_zero_of_le hlong, List.replicate_zero, List.append_nil, ← List.append_assoc, List.take_append_drop]

end Sys2Proof

namespace Sys2Proof.Machine

/-- The stream bits from a byte on are the bits of the bytes there. -/
theorem streamBits_eq_bytesToBits {s : State} {a : Nat} {bytes : List Byte}
    (h : ∀ j (hj : j < bytes.length), s.streamByte (a + j) = bytes[j]) :
    s.streamBits (8 * a) (8 * bytes.length) = bytesToBits bytes := by
  induction bytes generalizing a with
  | nil => rfl
  | cons v bytes ih =>
    have hfirst : s.streamByte a = v := h 0 (Nat.succ_pos _)
    have hrest : s.streamBits (8 * (a + 1)) (8 * bytes.length) = bytesToBits bytes :=
      ih fun j hj => by rw [Nat.add_right_comm]; exact h (j + 1) (Nat.succ_lt_succ hj)
    rw [List.length_cons, Nat.mul_succ, Nat.add_comm, streamBits_add, streamBits_byte, hfirst, ← Nat.mul_succ, hrest,
      bytesToBits_cons]

/-- At the start of a byte of a filled stream the machine stands before the bits of the bytes from there on. -/
theorem stands_of_stream {s : State} {skip bytes : List Byte} {bits : List Bool} {o : BitVec 4} {f : BitVec 1}
    (hopc : s.opc = o) (hflag : s.flag = f) (hbits : bytesToBits bytes = bits)
    (hstream : s.stream = Memory.writeBytes [] 0 (skip ++ bytes)) (hlen : s.streamLen = (skip ++ bytes).length)
    (hspos : s.spos = skip.length) (hcnt : s.bitCnt = 0) (hbuf : s.bitBuf = 0) : s.Stands o f bits := by
  rw [List.length_append] at hlen
  have hbyte (j) (hj : j < bytes.length) : s.streamByte (skip.length + j) = bytes[j] := by
    rw [State.streamByte, hstream, Memory.read?_writeBytes, if_pos (by rw [List.length_append]; omega), Nat.sub_zero,
      List.getElem?_append_right (Nat.le_add_right _ _), Nat.add_sub_cancel_left, List.getElem?_eq_getElem hj]
    rfl
  have hpos : s.bitPos = 8 * skip.length := by simp [State.bitPos, hspos, hcnt]
  refine ⟨⟨by omega, by simp [hcnt], by simp [hcnt, hbuf, Nat.mod_one]⟩, ?_, hopc, hflag⟩
  rw [State.remainingBits, hpos, hlen, ← Nat.mul_sub, Nat.add_sub_cancel_left, streamBits_eq_bytesToBits hbyte,
    hbits]

/-! ## Placed words -/

/-- What a fetch leaves alone: everything but the Bit Reader's registers, OPC and FLAG. -/
theorem Fetches.eq_with {s t : State} (h : Fetches s t) :
    t = { s with spos := t.spos, bitCnt := t.bitCnt, bitBuf := t.bitBuf, opc := t.opc, flag := t.flag } := by
  obtain ⟨⟨p, c, b, o, f, rfl⟩, _⟩ := h
  rfl

theorem Fetches.streamLen {s t : State} (h : Fetches s t) : t.streamLen = s.streamLen := by
  rw [h.eq_with]; rfl

theorem length_tableWordBits (nbits w : Nat) : (tableWordBits nbits w).2.length = longestOp := by
  have hrows : ∀ r ∈ tableRows, r.length ≤ longestOp := by decide
  unfold tableWordBits
  split
  case h_1 n hn =>
    obtain ⟨r, hr, rfl⟩ := Option.map_eq_some_iff.1 hn
    have hle := hrows r (List.mem_of_find?_eq_some hr)
    simp only [List.length_append, length_natBits, List.length_replicate]
    omega
  case h_2 => simp [longestOp]

theorem decodeTableWord_eq_some {nbits w : Nat} {i : Instr} (h : decodeTableWord nbits w = some i) :
    ∃ rest, decode (tableWordBits nbits w).1 (tableWordBits nbits w).2 = .ok (i, rest) := by
  unfold decodeTableWord at h
  split at h <;> cases h
  exact ⟨_, by assumption⟩

/-- The machine is about to fetch an operation of the given part of a decode pass, and no START is pending. -/
structure State.Fetching (part : StreamPart) (s : State) : Prop where
  running : s.running = true
  unfinished : s.unfinished = true
  decoding : s.cfgMode = .decode
  noStart : s.ctrlStart = false
  part : s.part = part

/-- The step of such a machine executes the operation fetched. -/
theorem State.Fetching.step_eq_exec {part : StreamPart} {s t : State} {i : Instr} (h : s.Fetching part)
    (e : decodePart readerSource part s = .ok (i, t)) : step s = exec i t := by
  have hdrop : dropStart s = s := by rw [dropStart, ← h.noStart]
  rw [← h.part] at e
  have hfetch : decodeStep s = exec i t := by rw [decodeStep, fetch, e]
  rw [step, machineStep, if_pos h.running, hdrop, passStep, if_pos h.unfinished, h.decoding]
  exact hfetch

/-- A placed word stands before the machine, with the zeros that complete its last byte, and the next step fetches it. -/
theorem withFetchWord_ready (s : State) (nbits w : Nat) :
    (s.withFetchWord nbits w).Fetching (tableWordBits nbits w).1 ∧
    ∃ pad, (s.withFetchWord nbits w).Stands s.opc s.flag ((tableWordBits nbits w).2 ++ List.replicate pad false) := by
  have hlen := length_tableWordBits nbits w
  unfold State.withFetchWord placeWord
  generalize tableWordBits nbits w = word at hlen
  obtain ⟨part, bits⟩ := word
  change bits.length = 66 at hlen
  obtain ⟨pad, hpad⟩ := bytesToBits_bitsToBytes bits
  cases part with
  | rawBytes =>
    refine ⟨⟨rfl, rfl, rfl, rfl, rfl⟩, pad, ?_⟩
    refine stands_of_stream (skip := []) rfl rfl hpad rfl ?_ rfl rfl rfl
    simp [State.streamLen, placedConfig, hlen]
  | operations =>
    refine ⟨⟨rfl, rfl, rfl, rfl, rfl⟩, pad, ?_⟩
    refine stands_of_stream (skip := [0, 0]) rfl rfl hpad rfl ?_ rfl rfl rfl
    simp [State.streamLen, placedConfig, hlen]

end Sys2Proof.Machine
end

section
/-! PROOFS. The obligations about the encoding of the operations (30_encoding). -/

namespace Sys2Proof.Machine

/-- Settles O1: the decoder reads back an encoding from every source of bits, so from a list. -/
theorem decodeInvertsEncode : Obligations.DecodeInvertsEncode := fun _ rest hi => decode_encode_append hi rest

/-- Settles O2, by the account of every bit that the decoder consumes. -/
theorem encodeInvertsDecode : Obligations.EncodeInvertsDecode := fun _ _ _ _ h => spelledBy_of_decode h

/-- Settles O3: the decoder fails only where the bits end. -/
theorem noBitPatternIsIllegal : Obligations.NoBitPatternIsIllegal := fun _ _ h => decode_total h

/-- Settles O4: both operations are read from the longer encoding, and the decoder is a function. -/
theorem noEncodingIsPrefixOfAnother : Obligations.NoEncodingIsPrefixOfAnother := by
  rintro i j hi hj hpart ⟨rest, h⟩
  have hread_i := decode_encode_append hi rest
  have hread_j := decode_encode_append hj []
  rw [List.append_nil, ← h, ← hpart] at hread_j
  cases hread_i.symm.trans hread_j
  rfl

/-- Settles O8: the word's bits stand before the placed machine, and the decoder reads from the Bit Reader the operation it
reads from those bits. -/
theorem placedWordRunsNext : Obligations.PlacedWordRunsNext := by
  intro s nbits w i hword p
  obtain ⟨rest, hdecode⟩ := decodeTableWord_eq_some hword
  obtain ⟨hi, hpart, hbits⟩ := spelledBy_of_decode hdecode
  obtain ⟨hfetching, pad, hstands⟩ : p.Fetching _ ∧ ∃ pad, p.Stands s.opc s.flag _ := withFetchWord_ready s nbits w
  rw [← hpart] at hfetching
  rw [hbits, List.append_assoc] at hstands
  obtain ⟨o, f, t, e, ht⟩ := decodePart_gives readerSource_follows hi hstands
  have hfetches : Fetches p t := fetch_ok (by rw [fetch, hfetching.part]; exact e)
  refine ⟨t, hfetching.step_eq_exec e, hfetches.eq_with, ht.reader, ?_, ?_, ?_, ?_, ?_⟩
  · have hbefore := hstands.bitPos_add_length
    have hafter := ht.bitPos_add_length
    rw [List.length_append] at hbefore
    rw [hfetches.streamLen] at hafter
    omega
  · rintro v rfl
    exact ((decodeRaw_gives readerSource_follows hstands).holds e).registers
  · rintro v rfl
    exact ((decodeOp_gives_lit readerSource_follows hstands).holds e).registers
  · rintro k rfl
    exact ((decodeOp_gives_dic readerSource_follows hstands).holds e).registers
  · rintro op r rfl
    rw [WellFormed, Instr.wellFormed_copy] at hi
    rw [Instr.part_copy] at e
    exact ((decodeOp_gives_copy readerSource_follows hi hstands).holds e).registers

/-- Settles O5, by running the decoder on the eight words. -/
theorem writtenOutBytesDecode : Obligations.WrittenOutBytesDecode := by
  refine ⟨?_, ?_, ?_, ?_, ?_, ?_, ?_, ?_⟩ <;> decide

/-- Settles O6: a form's value is its field, biased by 3 in `V6` and joined from two halves in `V62`. -/
theorem runCountValues : Obligations.RunCountValues :=
  ⟨toNat_runLen_v2, toNat_runLen_v6, toNat_runLen_v14, toNat_runLen_v30, toNat_runLen_v62,
    fun _ => runLen_eq_zero_iff⟩

end Sys2Proof.Machine
end

section
/-! SUPPORT. What a read by any width needs and does: the bytes it fetches, the bytes it depends on, and the bits before the
machine after it (40_bit_primitives R121, R122, R124). -/

namespace Sys2Proof.Machine

/-- The refill loop fetches the bytes that the missing bits need, and no more (40_bit_primitives R122). -/
theorem refill_spos (s : State) (n : Nat) {fuel acc cnt spos : Nat} (hfuel : n ≤ cnt + 8 * fuel) :
    (refill s n fuel acc cnt spos).2.2 = spos + (n - cnt + 7) / 8 := by
  induction fuel generalizing acc cnt spos with
  | zero => change spos = _; omega
  | succ fuel ih =>
    rw [refill]
    split
    · rw [ih (by omega)]; omega
    · change spos = _; omega

/-- Where the bytes below `len` hold enough bits, the refill loop looks at those bytes only. -/
theorem refill_congr {s t : State} {n len : Nat} (hbytes : ∀ a < len, t.streamByte a = s.streamByte a)
    {fuel acc cnt spos : Nat} (hlen : n ≤ cnt + 8 * (len - spos)) :
    refill t n fuel acc cnt spos = refill s n fuel acc cnt spos := by
  induction fuel generalizing acc cnt spos with
  | zero => rfl
  | succ fuel ih =>
    rw [refill, refill]
    split
    · rw [hbytes spos (by omega), ih (by omega)]
    · rfl

theorem takeBits_spos {n : Nat} {s t : State} {v : BitVec n} (e : takeBits n s = .ok (v, t)) :
    t.spos = s.spos + (n - s.bitCnt.toNat + 7) / 8 := by
  unfold takeBits at e
  split at e <;> cases e
  exact refill_spos s n (by omega)

/-- A successful read is the same over every stream with the same first SLEN bytes (40_bit_primitives R124). -/
theorem takeBits_stream_congr {n : Nat} {s t : State} {v : BitVec n} {m : Memory}
    (hbytes : ∀ a < s.streamLen, ({ s with stream := m } : State).streamByte a = s.streamByte a)
    (e : takeBits n s = .ok (v, t)) : takeBits n { s with stream := m } = .ok (v, { t with stream := m }) := by
  unfold takeBits at e
  split at e <;> cases e
  rename_i henough
  refine (if_neg henough).trans ?_
  dsimp only
  rw [refill_congr hbytes (by omega)]

/-- The failure test of the procedure is the one by BP (40_bit_primitives R120, R124). -/
theorem State.readerOk.short_iff {s : State} (h : s.readerOk) (n : Nat) :
    s.bitCnt.toNat + 8 * (s.streamLen - s.spos) < n ↔ 8 * s.streamLen < s.bitPos + n := by
  obtain ⟨hpos, hcnt, _⟩ := h
  unfold State.bitPos
  omega

/-- Bits that stand before the machine are read as their number and passed, at every width. -/
theorem takeBits_of_remainingBits {n : Nat} {s : State} {v : BitVec n} {rest : List Bool} (h : s.readerOk)
    (hbits : s.remainingBits = field v ++ rest) :
    ∃ t, takeBits n s = .ok (v, t) ∧ t.readerOk ∧ t.remainingBits = rest := by
  have hle := h.bitPos_le
  have hlen : 8 * s.streamLen - s.bitPos = n + rest.length := by
    simpa [State.remainingBits] using congrArg List.length hbits
  rw [State.remainingBits, hlen, streamBits_add] at hbits
  obtain ⟨hfield, hrest⟩ := List.append_inj hbits (by simp)
  obtain ⟨t, e, hpos, hreader, p, c, b, ht⟩ := takeBits_spec (n := n) h (by omega)
  rw [hfield, ofNat_bitsToNat_field] at e
  refine ⟨t, e, hreader, ?_⟩
  have hstream : t.stream = s.stream := by rw [ht]
  have hslen : t.streamLen = s.streamLen := by rw [ht]; rfl
  rw [State.remainingBits, streamBits_congr hstream, hslen, hpos, Nat.sub_add_eq, hlen, Nat.add_sub_cancel_left, hrest]

end Sys2Proof.Machine
end

section
/-! SUPPORT. The bits that the Bit Writer has written (10_state R24, R28, 40_bit_primitives R125, R126): a write appends the
bits of its field, and a flush the zeros that complete the last byte. -/

namespace Sys2Proof

theorem natBits_add (m n v : Nat) : natBits (m + n) v = natBits m (v / 2 ^ n) ++ natBits n v := by
  induction m with
  | zero => rw [Nat.zero_add]; rfl
  | succ m ih => rw [Nat.succ_add, natBits, ih, natBits, Nat.testBit_div_two_pow, Nat.add_comm]; rfl

theorem natBits_zero_right (n : Nat) : natBits n 0 = List.replicate n false := by
  induction n with
  | zero => rfl
  | succ n ih => rw [natBits, ih, Nat.zero_testBit, List.replicate_succ]

/-- A number shifted left shows its bits above as many zeros. -/
theorem natBits_shiftLeft (m n v : Nat) : natBits (m + n) (v <<< n) = natBits m v ++ List.replicate n false := by
  have hlow : natBits n (v * 2 ^ n) = List.replicate n false := by
    rw [← natBits_mod n _ le_rfl, Nat.mul_mod_left, natBits_zero_right]
  rw [Nat.shiftLeft_eq, natBits_add, Nat.mul_div_cancel _ (by positivity), hlow]

theorem field_ofNat (n v : Nat) : field (BitVec.ofNat n v) = natBits n v := by
  rw [field, BitVec.toNat_ofNat, natBits_mod n v le_rfl]

end Sys2Proof

namespace Sys2Proof.Machine

/-- Shifting a bit into WACC puts it behind the bits held there. -/
theorem natBits_shiftIn (a : BitVec 8) (b : Bool) {k : Nat} (hk : k < 8) :
    natBits (k + 1) (a <<< 1 ||| (BitVec.ofBool b).setWidth 8).toNat = natBits k a.toNat ++ [b] := by
  have hvalue : (a <<< 1 ||| (BitVec.ofBool b).setWidth 8).toNat = (2 * a.toNat + b.toNat) % 2 ^ 8 := by
    have hbit : ((BitVec.ofBool b).setWidth 8).toNat = b.toNat % 2 ^ 8 := by simp
    rw [BitVec.toNat_or, BitVec.toNat_shiftLeft, hbit, ← Nat.or_mod_two_pow, ← Nat.shiftLeft_add_eq_or_of_lt b.toNat_lt,
      Nat.shiftLeft_eq, Nat.mul_comm]
  have hhigh : (2 * a.toNat + b.toNat) / 2 ^ 1 = a.toNat := by have := b.toNat_le; omega
  have hlow : natBits 1 (2 * a.toNat + b.toNat) = [b] := by cases b <;> simp [natBits]
  rw [hvalue, natBits_mod (k + 1) _ hk, natBits_add, hhigh, hlow]

/-- The bits of OUT after a byte is appended (00_scope R10). -/
theorem flatMap_field_append (m : Memory) (n : Nat) (v : Byte) :
    ((List.range (n + 1)).flatMap fun a => field ((Memory.read? (Memory.write m n v) a).getD 0)) =
      ((List.range n).flatMap fun a => field ((Memory.read? m a).getD 0)) ++ field v := by
  have hbefore : ∀ a ∈ List.range n, field ((Memory.read? (Memory.write m n v) a).getD 0) =
      field ((Memory.read? m a).getD 0) := fun a ha => by
    rw [Memory.read?_write_other m v (List.mem_range.1 ha).ne]
  rw [List.range_succ, List.flatMap_append, List.flatMap_congr hbefore, List.flatMap_singleton,
    Memory.read?_write_same, Option.getD_some]

/-- Appending the byte that WACC completes moves the bits held there, and those added to them, to OUT. -/
theorem writtenBits_appendOut {s : State} {v : Byte} {bits : List Bool}
    (h : field v = natBits s.wCnt.toNat s.wAcc.toNat ++ bits) :
    ({ appendOut v s with wAcc := 0, wCnt := 0 } : State).writtenBits = s.writtenBits ++ bits := by
  change ((List.range (s.olen + 1)).flatMap fun a => field ((Memory.read? (Memory.write s.out s.olen v) a).getD 0)) ++
    [] = _
  rw [flatMap_field_append, h, List.append_nil, State.writtenBits, List.append_assoc]

theorem writeBit_writtenBits (s : State) (b : Bool) : (writeBit s b).writtenBits = s.writtenBits ++ [b] := by
  have hbits := natBits_shiftIn s.wAcc b s.wCnt.isLt
  unfold writeBit
  dsimp only
  split
  · rename_i hfull
    rw [hfull] at hbits
    exact writtenBits_appendOut hbits
  · rename_i hroom
    have hc : (s.wCnt + 1).toNat = s.wCnt.toNat + 1 := by bv_omega
    rw [State.writtenBits, State.writtenBits, List.append_assoc, ← hbits, ← hc]

theorem writeBits_writtenBits (v n : Nat) (s : State) :
    (writeBits v n s).writtenBits = s.writtenBits ++ natBits n v := by
  rw [writeBits_eq_foldl]
  induction natBits n v generalizing s with
  | nil => rw [List.append_nil]; rfl
  | cons b bits ih => rw [List.foldl_cons, ih, writeBit_writtenBits, List.append_assoc]; rfl

/-- The bits of a list of fields, in order. -/
def fieldBits (fields : List (Nat × Nat)) : List Bool := fields.flatMap fun f => natBits f.2 f.1

theorem length_fieldBits (fields : List (Nat × Nat)) : (fieldBits fields).length = (fields.map Prod.snd).sum := by
  simp [fieldBits, List.length_flatMap]

theorem writeFields_writtenBits (fields : List (Nat × Nat)) (s : State) :
    (writeFields fields s).writtenBits = s.writtenBits ++ fieldBits fields := by
  induction fields generalizing s with
  | nil => exact (List.append_nil _).symm
  | cons f fields ih =>
    change (writeFields fields (writeBits f.1 f.2 s)).writtenBits = _
    rw [ih, writeBits_writtenBits, List.append_assoc]
    rfl

/-- A flush completes the last byte with zeros (40_bit_primitives R126). -/
theorem flush_writtenBits (s : State) :
    (flush s).writtenBits = s.writtenBits ++ List.replicate ((8 - s.wCnt.toNat) % 8) false := by
  unfold flush
  split
  · rename_i hzero
    simp [hzero]
  · rename_i hpart
    have hpos : 0 < s.wCnt.toNat := by bv_omega
    have hlt := s.wCnt.isLt
    refine writtenBits_appendOut ?_
    rw [Nat.mod_eq_of_lt (by omega), ← natBits_shiftLeft, Nat.add_sub_cancel' hlt.le, field, BitVec.toNat_shiftLeft,
      natBits_mod _ _ le_rfl]

@[simp] theorem flush_wCnt (s : State) : (flush s).wCnt = 0 := by
  unfold flush
  split
  · assumption
  · rfl

theorem length_writtenBits (s : State) : s.writtenBits.length = s.bitsOut := by
  simp [State.writtenBits, State.bitsOut, List.length_flatMap, Nat.mul_comm]

/-- OLEN after a flush is the number of bits written, rounded up to bytes. -/
theorem flush_olen (s : State) : (flush s).olen = (s.bitsOut + 7) / 8 := by
  have hlen := congrArg List.length (flush_writtenBits s)
  rw [List.length_append, List.length_replicate, length_writtenBits, length_writtenBits] at hlen
  simp only [State.bitsOut, flush_wCnt] at hlen ⊢
  have hlt := s.wCnt.isLt
  have hzero : (0 : BitVec 3).toNat = 0 := rfl
  omega

/-- A Bit Reader at its START state over the bytes of a flushed writer has the written bits before it. -/
theorem remainingBits_eq_writtenBits {d w : State} (hspos : d.spos = 0) (hw : w.wCnt = 0)
    (hlen : d.streamLen = w.olen) (hbytes : ∀ a < d.streamLen, Memory.read? w.out a = some (d.streamByte a)) :
    d.remainingBits = w.writtenBits := by
  have hpos : d.bitPos = 0 := by simp [State.bitPos, hspos]
  have hstream := streamBits_eq_bytesToBits (s := d) (a := 0) (bytes := (List.range w.olen).map d.streamByte)
    (by simp)
  have hout : ∀ a ∈ List.range w.olen, field ((Memory.read? w.out a).getD 0) = field (d.streamByte a) := fun a ha => by
    rw [hbytes a (hlen ▸ List.mem_range.1 ha), Option.getD_some]
  rw [State.remainingBits, hpos, hlen, State.writtenBits, List.flatMap_congr hout, hw]
  simpa [bytesToBits, List.flatMap_map, natBits] using hstream

/-- Fields that stand before the machine are read one after another, each modulo its width. -/
theorem readFields_of_remainingBits {fields : List (Nat × Nat)} {s : State} {rest : List Bool} (h : s.readerOk)
    (hbits : s.remainingBits = fieldBits fields ++ rest) :
    ∃ u, readFields (fields.map Prod.snd) s = some (fields.map fun f => f.1 % 2 ^ f.2, u) ∧ u.remainingBits = rest := by
  induction fields generalizing s with
  | nil => exact ⟨s, rfl, hbits⟩
  | cons f fields ih =>
    have hhead : s.remainingBits = field (BitVec.ofNat f.2 f.1) ++ (fieldBits fields ++ rest) := by
      rw [hbits, field_ofNat, ← List.append_assoc]; rfl
    obtain ⟨t, e, ht, hrest⟩ := takeBits_of_remainingBits h hhead
    obtain ⟨u, hu, hend⟩ := ih ht hrest
    refine ⟨u, ?_, hend⟩
    simp only [List.map_cons, readFields, e, hu, Option.map_some, BitVec.toNat_ofNat]

end Sys2Proof.Machine
end

section
/-! PROOFS. The obligations about the Bit Reader and the Bit Writer (40_bit_primitives). -/

namespace Sys2Proof.Machine

/-- Settles O9: the two failure tests agree, and the procedure reads the bits at BP. -/
theorem registerReadIsBitPositionRead : Obligations.RegisterReadIsBitPositionRead := by
  refine ⟨fun n s h => ?_, readBits_eq_takeBits⟩
  have hshort := h.short_iff n
  rcases takeBits_cases n s with ⟨hfew, e⟩ | ⟨henough, _⟩
  · rw [e]
    exact ⟨rfl, if_pos (hshort.1 hfew)⟩
  · have hfits : ¬ 8 * s.streamLen < s.bitPos + n := fun hf => henough.not_gt (hshort.2 hf)
    obtain ⟨t, e, hpos, hreader, p, c, b, ht⟩ := takeBits_spec h (Nat.le_of_not_lt hfits)
    rw [e]
    refine ⟨?_, hreader, by rw [ht]⟩
    rw [readBitsAt, if_neg hfits, hpos]

/-- Settles O10: the procedure tests for enough bits before it fetches, and then fetches bytes below SLEN only. -/
theorem truncatedStreamExactly : Obligations.TruncatedStreamExactly := by
  intro n hn s h
  simp only [readBits_eq_takeBits]
  have hshort := h.short_iff n
  refine and_assoc.1 ⟨?_, fun m hbytes v t => takeBits_stream_congr hbytes⟩
  rcases takeBits_cases n s with ⟨hfew, e⟩ | ⟨henough, _, _, _, _, e⟩ <;> rw [e]
  · exact ⟨iff_of_true ⟨s, rfl⟩ (hshort.1 hfew), fun _ ht => (Except.error.inj ht).symm⟩
  · exact ⟨iff_of_false nofun fun hf => henough.not_gt (hshort.2 hf), nofun⟩

/-- Settles O11, by the count of the refill loop. -/
theorem refillsAreLazy : Obligations.RefillsAreLazy := by
  intro n s t v e
  have hspos := takeBits_spos e
  exact ⟨hspos, fun _ => by omega⟩

/-- Settles O12: what the reader has before it is what the writer wrote, the fields and then the zeros of the flush; and the
reader reads fields off the front. -/
theorem writtenFieldsReadBack : Obligations.WrittenFieldsReadBack := by
  intro fields s d _ _ hcnt holen _ hspos hbitCnt hbitBuf hlen hbytes total
  have hstart : s.writtenBits = [] := by simp [State.writtenBits, holen, hcnt, natBits]
  have hwritten : (writeFields fields s).writtenBits = fieldBits fields := by
    rw [writeFields_writtenBits, hstart, List.nil_append]
  have htotal : (writeFields fields s).bitsOut = total := by
    rw [← length_writtenBits, hwritten, length_fieldBits]
  have hreader : d.readerOk := ⟨by omega, by simp [hbitCnt], by simp [hbitCnt, hbitBuf, Nat.mod_one]⟩
  have hpad : (8 - (writeFields fields s).wCnt.toNat) % 8 = (8 - total % 8) % 8 := by
    have hlt := (writeFields fields s).wCnt.isLt
    unfold State.bitsOut at htotal
    omega
  refine ⟨by rw [flush_olen, htotal], readFields_of_remainingBits hreader ?_⟩
  rw [remainingBits_eq_writtenBits hspos (flush_wCnt _) hlen hbytes, flush_writtenBits, hwritten, hpad]

end Sys2Proof.Machine
end

section
/-! SUPPORT. The canonical form of a run count (41_varint R141): its range, its length, its value, and that it is the shortest
well-formed form of that value (R142). -/

namespace Sys2Proof

/-- The five ranges of the encoder and the form each takes (41_varint R141). -/
theorem canonicalRun_cases (v : Nat) :
    ((1 ≤ v ∧ v ≤ 3) ∧ canonicalRun v = .v2 (BitVec.ofNat 2 v)) ∨
    ((4 ≤ v ∧ v ≤ 18) ∧ canonicalRun v = .v6 (BitVec.ofNat 4 (v - 3))) ∨
    ((19 ≤ v ∧ v ≤ 255) ∧ canonicalRun v = .v14 (BitVec.ofNat 8 v)) ∨
    ((256 ≤ v ∧ v ≤ 65535) ∧ canonicalRun v = .v30 (BitVec.ofNat 16 v)) ∨
    ((v = 0 ∨ 65536 ≤ v) ∧ canonicalRun v = .v62 (BitVec.ofNat 16 (v >>> 16)) (BitVec.ofNat 16 v)) := by
  unfold canonicalRun
  split_ifs with h2 h6 h14 h30
  · exact .inl ⟨h2, rfl⟩
  · exact .inr (.inl ⟨h6, rfl⟩)
  · exact .inr (.inr (.inl ⟨h14, rfl⟩))
  · exact .inr (.inr (.inr (.inl ⟨h30, rfl⟩)))
  · exact .inr (.inr (.inr (.inr ⟨by omega, rfl⟩)))

theorem canonicalRun_wellFormed (v : Nat) : (canonicalRun v).wellFormed = true := by
  rcases canonicalRun_cases v with ⟨_, e⟩ | ⟨_, e⟩ | ⟨_, e⟩ | ⟨_, e⟩ | ⟨_, e⟩ <;> rw [e] <;>
    simp only [Run.wellFormed, bne_iff_ne] <;> bv_omega

/-! ## Lengths (30_encoding R98) -/

@[simp] theorem Run.length_bits_v2 (a : BitVec 2) : (Run.v2 a).bits.length = 2 := by simp [Run.bits]

@[simp] theorem Run.length_bits_v6 (b : BitVec 4) : (Run.v6 b).bits.length = 6 := by simp [Run.bits]

@[simp] theorem Run.length_bits_v14 (c : BitVec 8) : (Run.v14 c).bits.length = 14 := by simp [Run.bits]

@[simp] theorem Run.length_bits_v30 (d : BitVec 16) : (Run.v30 d).bits.length = 30 := by simp [Run.bits]

@[simp] theorem Run.length_bits_v62 (h l : BitVec 16) : (Run.v62 h l).bits.length = 62 := by simp [Run.bits]

/-- A value from 1 to the end of the range of `V6`, `V14` or `V30` takes no longer form (41_varint R141). -/
theorem length_bits_canonicalRun_le {v : Nat} (hv : 1 ≤ v) :
    (v ≤ 18 → (canonicalRun v).bits.length ≤ 6) ∧ (v ≤ 255 → (canonicalRun v).bits.length ≤ 14) ∧
    (v ≤ 65535 → (canonicalRun v).bits.length ≤ 30) := by
  rcases canonicalRun_cases v with ⟨_, e⟩ | ⟨_, e⟩ | ⟨_, e⟩ | ⟨_, e⟩ | ⟨_, e⟩ <;> rw [e] <;> simp <;> omega

/-! ## Reading a run count from a list of bits -/

theorem decodeRun_bits_append {r : Run} (hr : r.wellFormed = true) (rest : List Bool) :
    decodeRun listSource (r.bits ++ rest) = .ok (r, rest) := by
  obtain ⟨t, e, rfl⟩ := decodeRun_gives (o := 0) (f := 0) listSource_follows hr rfl
  exact e

end Sys2Proof

namespace Sys2Proof.Machine

/-! ## The value of the canonical form -/

theorem toNat_runLen_canonicalRun {v : Nat} (hv : v < 2 ^ 32) : (runLen (canonicalRun v)).toNat = v := by
  rcases canonicalRun_cases v with ⟨_, e⟩ | ⟨_, e⟩ | ⟨_, e⟩ | ⟨_, e⟩ | ⟨_, e⟩ <;> rw [e]
  · rw [toNat_runLen_v2]; bv_omega
  · rw [toNat_runLen_v6]; bv_omega
  · rw [toNat_runLen_v14]; bv_omega
  · rw [toNat_runLen_v30]; bv_omega
  · rw [toNat_runLen_v62, Nat.shiftRight_eq_div_pow]; bv_omega

/-! ## The canonical form of the value that a form spells (41_varint R142) -/

theorem canonicalRun_runLen_v2 {a : BitVec 2} (ha : a ≠ 0) : canonicalRun (runLen (.v2 a)).toNat = .v2 a := by
  rw [toNat_runLen_v2, canonicalRun, if_pos (by bv_omega), BitVec.ofNat_toNat, BitVec.setWidth_eq]

theorem canonicalRun_runLen_v6 {b : BitVec 4} (hb : b ≠ 0) : canonicalRun (runLen (.v6 b)).toNat = .v6 b := by
  rw [toNat_runLen_v6, canonicalRun, if_neg (by bv_omega), if_pos (by bv_omega), Nat.add_sub_cancel, BitVec.ofNat_toNat,
    BitVec.setWidth_eq]

theorem canonicalRun_runLen_v14 {c : BitVec 8} (hc : 19 ≤ c.toNat) : canonicalRun (runLen (.v14 c)).toNat = .v14 c := by
  rw [toNat_runLen_v14, canonicalRun, if_neg (by omega), if_neg (by omega), if_pos (by bv_omega), BitVec.ofNat_toNat,
    BitVec.setWidth_eq]

theorem canonicalRun_runLen_v30 {d : BitVec 16} (hd : 256 ≤ d.toNat) :
    canonicalRun (runLen (.v30 d)).toNat = .v30 d := by
  rw [toNat_runLen_v30, canonicalRun, if_neg (by omega), if_neg (by omega), if_neg (by omega), if_pos (by bv_omega),
    BitVec.ofNat_toNat, BitVec.setWidth_eq]

/-- `V62` spells 0 and the values from 65536 on canonically, the values between them overlong. -/
theorem canonicalRun_runLen_v62 {h l : BitVec 16} (hn : h ≠ 0 ∨ l = 0) :
    canonicalRun (runLen (.v62 h l)).toNat = .v62 h l := by
  have hhigh : BitVec.ofNat 16 ((h.toNat * 65536 + l.toNat) >>> 16) = h := by rw [Nat.shiftRight_eq_div_pow]; bv_omega
  have hlow : BitVec.ofNat 16 (h.toNat * 65536 + l.toNat) = l := by bv_omega
  rw [toNat_runLen_v62, canonicalRun, if_neg (by bv_omega), if_neg (by bv_omega), if_neg (by bv_omega),
    if_neg (by bv_omega), hhigh, hlow]

/-- A form whose value lies below the range of its form is overlong, any other is canonical. -/
theorem eq_canonicalRun_or_longer {r : Run} (hr : r.wellFormed = true) :
    r = canonicalRun (runLen r).toNat ∨ (canonicalRun (runLen r).toNat).bits.length < r.bits.length := by
  cases r <;> simp only [Run.wellFormed, bne_iff_ne] at hr
  case v2 a => exact .inl (canonicalRun_runLen_v2 hr).symm
  case v6 b => exact .inl (canonicalRun_runLen_v6 hr).symm
  case v14 c =>
    rcases Nat.lt_or_ge c.toNat 19 with hlt | hge
    · obtain ⟨hle, _, _⟩ := length_bits_canonicalRun_le (v := c.toNat) (by bv_omega)
      rw [toNat_runLen_v14, Run.length_bits_v14]
      exact .inr ((hle (by omega)).trans_lt (by decide))
    · exact .inl (canonicalRun_runLen_v14 hge).symm
  case v30 d =>
    rcases Nat.lt_or_ge d.toNat 256 with hlt | hge
    · obtain ⟨_, hle, _⟩ := length_bits_canonicalRun_le (v := d.toNat) (by bv_omega)
      rw [toNat_runLen_v30, Run.length_bits_v30]
      exact .inr ((hle (by omega)).trans_lt (by decide))
    · exact .inl (canonicalRun_runLen_v30 hge).symm
  case v62 h l =>
    by_cases hn : h ≠ 0 ∨ l = 0
    · exact .inl (canonicalRun_runLen_v62 hn).symm
    · have hzero : h.toNat = 0 := by bv_omega
      obtain ⟨_, _, hle⟩ := length_bits_canonicalRun_le (v := l.toNat) (by bv_omega)
      rw [toNat_runLen_v62, Run.length_bits_v62, hzero, Nat.zero_mul, Nat.zero_add]
      exact .inr ((hle (by bv_omega)).trans_lt (by decide))

/-! ## Writing a run count -/

theorem foldl_writeBit_field_ofNat (n v : Nat) (s : State) :
    (field (BitVec.ofNat n v)).foldl writeBit s = writeBits v n s := by rw [field_ofNat, writeBits_eq_foldl]

theorem encodeVarint_eq_foldl (v : Nat) (s : State) : encodeVarint v s = (canonicalRun v).bits.foldl writeBit s := by
  have hzero (n : Nat) (t : State) : (field (0 : BitVec n)).foldl writeBit t = writeBits 0 n t :=
    foldl_writeBit_field_ofNat n 0 t
  have hlow (t : State) : writeBits (v % 2 ^ 16) 16 t = writeBits v 16 t := by
    rw [writeBits_eq_foldl, natBits_mod 16 v le_rfl, writeBits_eq_foldl]
  unfold encodeVarint canonicalRun
  split_ifs <;> simp only [Run.bits, List.foldl_append, hzero, foldl_writeBit_field_ofNat, hlow]

end Sys2Proof.Machine
end

section
/-! SUPPORT. A copy of no pixel-group (43_decoder_ops R194). -/

namespace Sys2Proof.Machine

/-- From the second pixel-group on every copy has a source (43_decoder_ops R188 to R192). -/
theorem exists_sourceOffset (op : CopyOp) {p w : Nat} (l : Nat) (h : p ≤ w) : ∃ src, sourceOffset op p l w = some src := by
  cases op with
  | cprev => exact ⟨w - p, if_pos h⟩
  | cup | cupr | cupl | cprev2 => exact ⟨_, rfl⟩

theorem loopTest_of_cur_lt_size {s : State} (hp : s.phase = .mainLoop) (h : s.cur < s.size) : loopTest s = s := by
  rcases loopTest_cases s with ⟨e, _⟩ | ⟨_, hp', _⟩ | ⟨_, hle, _⟩
  · exact e
  · cases hp.symm.trans hp'
  · exact absurd hle (Nat.not_le_of_lt h)

theorem copyRun_zero {op : CopyOp} {s : State} {src : Nat} (hsrc : sourceOffset op s.bpp s.lineBytes s.cur = some src)
    (hp : s.phase = .mainLoop) (h : s.cur < s.size) :
    copyRun op 0 s = .next { s with len := 0, w := s.cur, src := src } := by
  have hcount : (0 : BitVec 32).toNat * s.bpp = 0 := Nat.zero_mul _
  simp only [copyRun, hsrc, hcount, Nat.add_zero, copyForward]
  rw [if_neg (by omega), if_neg (by omega)]
  exact congrArg _ (loopTest_of_cur_lt_size (s := { s with len := 0, w := s.cur, src := src }) hp h)

end Sys2Proof.Machine
end

section
/-! PROOFS. The obligations about the run counts (41_varint). -/

namespace Sys2Proof.Machine

/-- Settles O7: the writer and the decoder go by the same form, and no form of a value is shorter than the canonical one. -/
theorem varintRoundTrip : Obligations.VarintRoundTrip :=
  ⟨fun v hv => ⟨encodeVarint_eq_foldl v, decodeRun_bits_append (canonicalRun_wellFormed v), toNat_runLen_canonicalRun hv⟩,
    fun _ hr hne => (eq_canonicalRun_or_longer hr).resolve_left hne⟩

/-- Settles O27: 62 zero bits spell `V62` with both halves 0, and a run of no bytes leaves canvas and cursor where they are. -/
theorem zeroLengthCopyDoesNothing : Obligations.ZeroLengthCopyDoesNothing := by
  refine ⟨decodeRun_bits_append (r := .v62 0 0) rfl, rfl, fun op s hp _ hge hlt => ?_⟩
  obtain ⟨src, hsrc⟩ := exists_sourceOffset op s.lineBytes hge
  exact ⟨src, hsrc, (exec_copy op _ s).trans (copyRun_zero hsrc hp hlt)⟩

end Sys2Proof.Machine
end

section
/-! SUPPORT. The Dictionary Cache as functions on lists (42_dictionary_cache R160 to R164): where a value stands, what an
update makes of the list of its reference byte, and what it leaves of the others. -/

namespace Sys2Proof.Machine

/-! ## Where a value stands -/

theorem firstIndex_eq_findIdx? (v : Byte) (xs : List Byte) : firstIndex v xs = xs.findIdx? (· == v) := by
  induction xs with
  | nil => rfl
  | cons x xs ih => simp [firstIndex, List.findIdx?_cons, ih]

theorem position_eq_some_iff {l : DictList} {v : Byte} {p : Nat} :
    position l v = some p ↔ ∃ h : p < 8, l[p] = v ∧ ∀ q, (hq : q < p) → l[q] ≠ v := by
  simp [position, firstIndex_eq_findIdx?, List.findIdx?_eq_some_iff_getElem]

theorem position_eq_some_iff_getElem? {l : DictList} {v : Byte} {p : Nat} :
    position l v = some p ↔ l.toList[p]? = some v ∧ ∀ q < p, l.toList[q]? ≠ some v := by
  have hslot {q : Nat} (hq : q < 8) : l.toList[q]? = some l[q] := by simp [hq]
  rw [position_eq_some_iff]
  constructor
  · rintro ⟨hp, hv, hfirst⟩
    exact ⟨by rw [hslot hp, hv], fun q hq => by simpa [hslot (hq.trans hp)] using hfirst q hq⟩
  · rintro ⟨hv, hfirst⟩
    have hp : p < 8 := by simpa using (List.getElem?_eq_some_iff.1 hv).1
    exact ⟨hp, by simpa [hslot hp] using hv, fun q hq => by simpa [hslot (hq.trans hp)] using hfirst q hq⟩

theorem position_eq_none_iff {l : DictList} {v : Byte} : position l v = none ↔ v ∉ l.toList := by
  simp only [position, firstIndex_eq_findIdx?, List.findIdx?_eq_none_iff, beq_eq_false_iff_ne]
  exact ⟨fun h hv => h v hv rfl, fun h x hx hxv => h (hxv ▸ hx)⟩

/-- The slots of a list are numbered by the eight 3-bit numbers (42_dictionary_cache R162). -/
theorem mem_dictList_iff {d : Dict} {r v : Byte} : v ∈ (dictList d r).toList ↔ ∃ slot, lookup d r slot = v := by
  rw [Vector.mem_toList_iff, Vector.mem_iff_getElem]
  exact ⟨fun ⟨i, hi, h⟩ => ⟨BitVec.ofNatLT i hi, h⟩, fun ⟨slot, h⟩ => ⟨slot.toNat, slot.isLt, h⟩⟩

/-! ## What an update makes of a list -/

theorem moveToFront_zero {l : DictList} {v : Byte} (h : position l v = some 0) : moveToFront l v = l := by
  simp [moveToFront, h]

/-- A value that stands at slot `p` is taken out there and put in front; at slot 0 that changes nothing. -/
theorem toList_moveToFront_of_some {l : DictList} {v : Byte} {p : Nat} (h : position l v = some p) :
    (moveToFront l v).toList = v :: l.toList.eraseIdx p := by
  obtain ⟨hp, hv, _⟩ := position_eq_some_iff.1 h
  cases p with
  | zero =>
    have hcons : l[0] :: l.toList.eraseIdx 0 = l.toList := by
      simpa using List.getElem_cons_drop (as := l.toList) (i := 0) (by simp)
    rw [moveToFront_zero h]
    exact (hv ▸ hcons).symm
  | succ p => simpa [moveToFront, h] using toList_shiftIn l hp v

/-- An absent value evicts slot 7. -/
theorem toList_moveToFront_of_none {l : DictList} {v : Byte} (h : position l v = none) :
    (moveToFront l v).toList = v :: l.toList.eraseIdx 7 := by
  simpa [moveToFront, h] using toList_shiftIn l (by decide) v

theorem dictList_update_self (d : Dict) (r v : Byte) : dictList (update d r v) r = moveToFront (dictList d r) v := by
  rw [update, dictList_setDictList, if_pos rfl]

theorem dictList_update_of_ne {q r : Byte} (h : q ≠ r) (d : Dict) (v : Byte) :
    dictList (update d r v) q = dictList d q := by
  rw [update, dictList_setDictList, if_neg h]

theorem update_of_position_zero {d : Dict} {r v : Byte} (h : position (dictList d r) v = some 0) : update d r v = d := by
  rw [update, moveToFront_zero h]
  exact Vector.set_getElem_self _

/-- In a list of distinct values a value names its slot (42_dictionary_cache R166). -/
theorem lookup_injective {d : Dict} (h : dictDistinct d) (r : Byte) : Function.Injective (lookup d r) := fun _ _ hxy =>
  BitVec.eq_of_toNat_eq ((h r).getElem_inj_iff.1 hxy)

end Sys2Proof.Machine
end

section
/-! SUPPORT. What RAW, the copies and the encoder's raw byte and copy emission do is the same under any dictionary, and
they leave it as it is (42_dictionary_cache R167). -/

namespace Sys2Proof.Machine

/-! ## The next state of the shared parts of the meanings, and of the loop tests -/

theorem writeRaw_of_cur_lt_size (v : Byte) {s : State} (h : s.cur < s.size) :
    writeRaw v s = .next (loopTest { s with val := v, canvas := Memory.write s.canvas s.cur v, cur := s.cur + 1 }) := by
  obtain ⟨t, ht⟩ := writeRaw_gives_next v h
  rw [ht, (writeRaw_next ht).2]

theorem copyRun_of_overrun {op : CopyOp} {n : BitVec 32} {s : State} {src : Nat}
    (hsrc : sourceOffset op s.bpp s.lineBytes s.cur = some src) (h : s.size < s.cur + n.toNat * s.bpp) :
    copyRun op n s = .next (raise .canvasOverrun { s with len := n, w := s.cur, src := src }) := by
  simp only [copyRun, hsrc]
  rw [if_pos h]

theorem copyRun_of_fits {op : CopyOp} {n : BitVec 32} {s : State} {src : Nat}
    (hsrc : sourceOffset op s.bpp s.lineBytes s.cur = some src) (h : s.cur + n.toNat * s.bpp ≤ s.size)
    (h' : 0 < n.toNat * s.bpp → src + n.toNat * s.bpp ≤ s.size) :
    copyRun op n s = .next (loopTest { s with
      len := n, w := s.cur, src := src,
      canvas := copyForward s.canvas src s.cur (n.toNat * s.bpp), cur := s.cur + n.toNat * s.bpp }) := by
  simp only [copyRun, hsrc]
  rw [if_neg (by omega), if_neg (by omega)]

theorem loopTest_of_continuing {s : State} (hprefix : s.phase = .litPrefix → s.cur < s.prefixBytes)
    (hloop : s.phase = .mainLoop → s.cur < s.size) : loopTest s = s := by
  have hsize := s.prefixBytes_le_size
  rcases loopTest_cases s with ⟨e, _⟩ | ⟨_, hp, hle, _⟩ | ⟨_, hle, hp | hp⟩
  · exact e
  · exact absurd hle (Nat.not_le_of_lt (hprefix hp))
  · exact absurd (hsize.trans hle) (Nat.not_le_of_lt (hprefix hp))
  · exact absurd hle (Nat.not_le_of_lt (hloop hp))

theorem loopTest_of_prefix_complete {s : State} (hp : s.phase = .litPrefix) (hprefix : s.prefixBytes ≤ s.cur)
    (h : s.cur < s.size) : loopTest s = { s with phase := .mainLoop } := by
  rcases loopTest_cases s with ⟨_, hlt, _⟩ | ⟨e, _⟩ | ⟨_, hle, _⟩
  · exact absurd hprefix (Nat.not_le_of_lt (hlt hp))
  · exact e
  · exact absurd hle (Nat.not_le_of_lt h)

theorem loopTest_of_canvas_full {s : State} (hp : s.phase = .litPrefix ∨ s.phase = .mainLoop) (h : s.size ≤ s.cur) :
    loopTest s = finish { s with phase := .mainLoop } := by
  have hsize := s.prefixBytes_le_size
  rcases loopTest_cases s with ⟨_, hprefix, hloop⟩ | ⟨_, _, _, hlt⟩ | ⟨e, _⟩
  · rcases hp with hp | hp
    · exact absurd (hsize.trans h) (Nat.not_le_of_lt (hprefix hp))
    · exact absurd h (Nat.not_le_of_lt (hloop hp))
  · exact absurd h (Nat.not_le_of_lt hlt)
  · exact e

/-! ## The state with another dictionary -/

/-- The state with the dictionary `d` in place of its own. -/
def State.withDict (s : State) (d : Dict) : State := { s with dict := d }

theorem writeBit_withDict (s : State) (b : Bool) (d : Dict) : writeBit (s.withDict d) b = (writeBit s b).withDict d := by
  unfold writeBit State.withDict
  dsimp only
  split <;> rfl

theorem foldl_writeBit_withDict (bits : List Bool) (s : State) (d : Dict) :
    bits.foldl writeBit (s.withDict d) = (bits.foldl writeBit s).withDict d := by
  induction bits generalizing s with
  | nil => rfl
  | cons b bits ih => rw [List.foldl_cons, writeBit_withDict, ih, List.foldl_cons]

theorem flush_withDict (s : State) (d : Dict) : flush (s.withDict d) = (flush s).withDict d := by
  unfold flush State.withDict
  split <;> rfl

theorem finish_withDict (s : State) (d : Dict) : finish (s.withDict d) = (finish s).withDict d := by
  cases hmode : s.cfgMode with
  | decode => rw [finish_decode hmode, finish_decode (s := s.withDict d) hmode]; rfl
  | encode => rw [finish_encode hmode, finish_encode (s := s.withDict d) hmode, flush_withDict]; rfl

theorem loopTest_withDict (s : State) (d : Dict) : loopTest (s.withDict d) = (loopTest s).withDict d := by
  rcases loopTest_cases s with ⟨e, hprefix, hloop⟩ | ⟨e, hp, hprefix, h⟩ | ⟨e, h, hp⟩ <;> rw [e]
  · exact loopTest_of_continuing hprefix hloop
  · exact loopTest_of_prefix_complete hp hprefix h
  · exact (loopTest_of_canvas_full (s := s.withDict d) hp h).trans (finish_withDict { s with phase := .mainLoop } d)

/-! ## The operations under another dictionary -/

theorem writeRaw_withDict {v : Byte} {s t : State} (h : writeRaw v s = .next t) (d : Dict) :
    writeRaw v (s.withDict d) = .next (t.withDict d) := by
  obtain ⟨hcur, rfl⟩ := writeRaw_next h
  rw [← loopTest_withDict]
  exact writeRaw_of_cur_lt_size v hcur

theorem copyRun_withDict {op : CopyOp} {n : BitVec 32} {s t : State} (h : copyRun op n s = .next t) (d : Dict) :
    copyRun op n (s.withDict d) = .next (t.withDict d) := by
  obtain ⟨src, hsrc, ⟨hover, rfl⟩ | ⟨hfit, hread, rfl⟩⟩ := copyRun_next h
  · exact copyRun_of_overrun hsrc hover
  · rw [← loopTest_withDict]
    exact copyRun_of_fits hsrc hfit hread

theorem emitPrefixByte_withDict (s : State) (d : Dict) : emitPrefixByte (s.withDict d) = (emitPrefixByte s).withDict d := by
  unfold emitPrefixByte
  rw [writeBits_eq_foldl, foldl_writeBit_withDict]
  rfl

theorem emitCopy_withDict (op : CopyOp) (n : Nat) (s : State) (d : Dict) :
    emitCopy op n (s.withDict d) = (emitCopy op n s).withDict d := by
  unfold emitCopy
  simp only [encodeVarint_eq_foldl, writeBits_eq_foldl, foldl_writeBit_withDict]
  rfl

end Sys2Proof.Machine
end

section
/-! PROOFS. The obligations about the Dictionary Cache (42_dictionary_cache). -/

namespace Sys2Proof.Machine

/-- Settles O13: a value's first position is the slot the update takes it out of. -/
theorem updateMovesToFront : Obligations.UpdateMovesToFront := by
  intro d r v
  refine ⟨fun p hp hfirst => ?_, fun hv => ?_, fun q hq => dictList_update_of_ne hq d v⟩
  · have hpos : position (dictList d r) v = some p := position_eq_some_iff_getElem?.2 ⟨hp, hfirst⟩
    refine ⟨?_, ?_⟩
    · rw [dictList_update_self, toList_moveToFront_of_some hpos, List.eraseIdx_eq_take_drop_succ]
    · rintro rfl
      exact update_of_position_zero hpos
  · rw [dictList_update_self, toList_moveToFront_of_none (position_eq_none_iff.2 hv), List.eraseIdx_eq_take_drop_succ]
    simp

/-- Settles O14: `find` is the first position in one list, whose entries are what `lookup` gives. -/
theorem findReturnsSmallestSlot : Obligations.FindReturnsSmallestSlot := by
  intro d r v
  refine ⟨fun p => position_eq_some_iff, ?_, fun d' hd => ?_⟩
  · rw [find, position_eq_none_iff, mem_dictList_iff, not_exists]
  · rw [find, hd, find]

/-- Settles O15: distinct slots make `lookup` injective. -/
theorem updateKeepsSlotsDistinct : Obligations.UpdateKeepsSlotsDistinct :=
  ⟨dictDistinct_replicate (by decide), fun _ r v h => update_distinct h r v, fun _ r _ _ h hxy => lookup_injective h r hxy⟩

/-- Settles O16: each of these operations commutes with putting another dictionary in place. -/
theorem onlyLitAndDicTouchDictionary : Obligations.OnlyLitAndDicTouchDictionary := by
  refine ⟨fun i s t d hlit hdic h => ?_, emitPrefixByte_withDict, emitCopy_withDict⟩
  induction i using Instr.familyCases with
  | raw v => exact writeRaw_withDict h d
  | lit v => exact absurd rfl (hlit v)
  | dic k => exact absurd rfl (hdic k)
  | copy op r =>
    rw [exec_copy] at h ⊢
    exact copyRun_withDict h d

end Sys2Proof.Machine
end

section
/-! SUPPORT. Two sources of bits that answer alike give the same operation (30_encoding R92): the decoder is written once over
any source, and so is this. The Bit Reader answers as the list of the bits before it. -/

namespace Sys2Proof

/-- The two readings end alike: both with the same value, or both out of bits; the sources after them are related by `R`. -/
inductive Reading.Agrees {σ τ α : Type} (R : σ → τ → Prop) : Reading σ α → Reading τ α → Prop where
  | ok (a : α) {s : σ} {t : τ} (h : R s t) : Reading.Agrees R (.ok (a, s)) (.ok (a, t))
  | error {s : σ} {t : τ} (h : R s t) : Reading.Agrees R (.error s) (.error t)

theorem Reading.Agrees.andThen {σ τ α β : Type} {R : σ → τ → Prop} {r : Reading σ α} {r' : Reading τ α}
    {k : α → σ → Reading σ β} {k' : α → τ → Reading τ β} (h : r.Agrees R r')
    (hk : ∀ a s t, R s t → (k a s).Agrees R (k' a t)) : (r.andThen k).Agrees R (r'.andThen k') := by
  cases h with
  | ok a h => exact hk a _ _ h
  | error h => exact .error h

/-- Related sources answer every access of the decoder alike, and are related after it. -/
structure BitSource.Agrees {σ τ : Type} (src : BitSource σ) (src' : BitSource τ) (R : σ → τ → Prop) : Prop where
  read : ∀ {s t} n h, R s t → (src.read n h s).Agrees R (src'.read n h t)
  setOpc : ∀ {s t} c, R s t → R (src.setOpc c s) (src'.setOpc c t)
  setFlag : ∀ {s t} f, R s t → R (src.setFlag f s) (src'.setFlag f t)

section
variable {σ τ : Type} {src : BitSource σ} {src' : BitSource τ} {R : σ → τ → Prop} {s : σ} {t : τ}

/-- A field is read from both sources, and reading goes on alike. -/
theorem BitSource.Agrees.readThen (h : src.Agrees src' R) {n : Nat} {hn : ReadWidth n} {β : Type}
    {k : BitVec n → σ → Reading σ β} {k' : BitVec n → τ → Reading τ β} (hs : R s t)
    (hk : ∀ v s t, R s t → (k v s).Agrees R (k' v t)) :
    ((src.read n hn s).andThen k).Agrees R ((src'.read n hn t).andThen k') :=
  (h.read n hn hs).andThen hk

/-- A varint form ends the varint for both sources, or both pass on to the next longer form (30_encoding R98). -/
theorem BitSource.Agrees.readForm (h : src.Agrees src' R) {n : Nat} {hn : ReadWidth n} {form : BitVec n → Run}
    {k : σ → Reading σ Run} {k' : τ → Reading τ Run} (hs : R s t) (hk : ∀ s t, R s t → (k s).Agrees R (k' t)) :
    ((src.read n hn s).andThen fun a s => if a ≠ 0 then .ok (form a, s) else k s).Agrees R
      ((src'.read n hn t).andThen fun a t => if a ≠ 0 then .ok (form a, t) else k' t) :=
  h.readThen hs fun v s t hs => by
    split
    · exact .ok _ hs
    · exact hk s t hs

theorem decodeRun_agrees (h : src.Agrees src' R) (hs : R s t) : (decodeRun src s).Agrees R (decodeRun src' t) :=
  h.readForm hs fun _ _ hs => h.readForm hs fun _ _ hs => h.readForm hs fun _ _ hs => h.readForm hs fun _ _ hs =>
    h.readThen hs fun _ _ _ hs => h.readThen hs fun _ _ _ hs => .ok _ hs

theorem decodeCopy_agrees (h : src.Agrees src' R) (op : CopyOp) (hs : R s t) :
    (decodeCopy src op s).Agrees R (decodeCopy src' op t) :=
  (decodeRun_agrees h (h.setOpc _ hs)).andThen fun _ _ _ hs => .ok _ hs

theorem decodeOp_agrees (h : src.Agrees src' R) (hs : R s t) : (decodeOp src s).Agrees R (decodeOp src' t) := by
  refine h.readThen hs fun b s t hs => ?_
  split
  · refine h.readThen (h.setOpc 0 hs) fun f s t hs => ?_
    dsimp only
    split
    · exact h.readThen (h.setFlag f hs) fun _ _ _ hs => .ok _ hs
    · exact h.readThen (h.setFlag f hs) fun _ _ _ hs => .ok _ hs
  · refine h.readThen hs fun b s t hs => ?_
    split
    · exact decodeCopy_agrees h .cprev hs
    · exact h.readThen hs fun v _ _ hs => decodeCopy_agrees h (longCopyOp v) hs

theorem decodePart_agrees (h : src.Agrees src' R) (part : StreamPart) (hs : R s t) :
    (decodePart src part s).Agrees R (decodePart src' part t) := by
  cases part with
  | rawBytes => exact h.readThen hs fun _ _ _ hs => .ok _ hs
  | operations => exact decodeOp_agrees h hs

end

/-- No operation has fewer than four bits (30_encoding R99, 43_decoder_ops R196). -/
theorem four_le_length_encode (i : Instr) : 4 ≤ (encode i).length := by
  have hcopy (op : CopyOp) : 2 ≤ op.bits.length := by cases op <;> decide
  have hrun (r : Run) : 2 ≤ r.bits.length := by cases r <;> simp [Run.bits]
  induction i using Instr.familyCases with
  | raw v => simp [encode_raw]
  | lit v => simp [encode_lit]
  | dic k => simp [encode_dic]
  | copy op r =>
    rw [encode_copy, List.length_append]
    exact Nat.add_le_add (hcopy op) (hrun r)

end Sys2Proof

namespace Sys2Proof.Machine

/-- The Bit Reader invariant holds, and `bits` is what the Bit Reader has before it. -/
structure State.Before (s : State) (bits : List Bool) : Prop where
  reader : s.readerOk
  bits : s.remainingBits = bits

/-- The Bit Reader answers as the list of the bits before it, TruncatedStream included (40_bit_primitives R120, R124). -/
theorem readerSource_agrees_listSource : readerSource.Agrees listSource State.Before where
  read {s bits} n hn h := by
    obtain ⟨hreader, rfl⟩ := h
    have hle := hreader.bitPos_le
    have hlen : s.remainingBits.length = 8 * s.streamLen - s.bitPos := length_streamBits ..
    change Reading.Agrees State.Before (takeBits n s) _
    rcases listSource_read n hn s.remainingBits with ⟨hshort, e⟩ | ⟨henough, e⟩ <;> rw [e]
    · rw [takeBits, if_pos ((hreader.short_iff n).2 (by omega))]
      exact .error ⟨hreader, rfl⟩
    · have hsplit : s.remainingBits =
          field (BitVec.ofNat n (bitsToNat (s.remainingBits.take n))) ++ s.remainingBits.drop n := by
        rw [field_bitsToNat (List.length_take_of_le henough), List.take_append_drop]
      obtain ⟨t, e, hreader', hbits⟩ := takeBits_of_remainingBits hreader hsplit
      rw [e]
      exact .ok _ ⟨hreader', hbits⟩
  setOpc {s _} c h := ⟨h.reader, (remainingBits_congr (s := s) (t := { s with opc := c }) rfl rfl rfl).trans h.bits⟩
  setFlag {s _} f h := ⟨h.reader, (remainingBits_congr (s := s) (t := { s with flag := f }) rfl rfl rfl).trans h.bits⟩

/-- What is fetched is what the bits before the machine decode to, and it is passed (43_decoder_ops R184). -/
theorem decode_of_fetch {s t : State} {i : Instr} (h : s.readerOk) (e : fetch s = .ok (i, t)) :
    t.readerOk ∧ decode s.part s.remainingBits = .ok (i, t.remainingBits) := by
  have hagrees := decodePart_agrees readerSource_agrees_listSource s.part (show s.Before _ from ⟨h, rfl⟩)
  change Reading.Agrees State.Before (fetch s) _ at hagrees
  rw [e] at hagrees
  generalize hlist : decodePart listSource s.part s.remainingBits = r at hagrees
  cases hagrees with
  | ok _ ht =>
    obtain ⟨hreader, rfl⟩ := ht
    exact ⟨hreader, decode_eq_ok_iff.2 hlist⟩

/-- A fetched operation stood at BP, and BP has moved past exactly its bits (10_state R27). -/
theorem bitPos_of_fetch {s t : State} {i : Instr} (h : s.readerOk) (e : fetch s = .ok (i, t)) :
    t.readerOk ∧ t.bitPos = s.bitPos + (encode i).length := by
  obtain ⟨ht, hdecode⟩ := decode_of_fetch h e
  obtain ⟨_, _, hbits⟩ := spelledBy_of_decode hdecode
  have hlen := congrArg List.length hbits
  rw [List.length_append, State.remainingBits, State.remainingBits, length_streamBits, length_streamBits,
    (fetch_ok e).streamLen] at hlen
  have hle := h.bitPos_le
  have hle' := ht.bitPos_le
  rw [(fetch_ok e).streamLen] at hle'
  exact ⟨ht, by omega⟩

/-- OPC and FLAG after a machine that stood before the encoding of `i` has fetched it (30_encoding R92, 43_decoder_ops R184). -/
theorem State.Stands.fetched_registers {o : BitVec 4} {f : BitVec 1} {i : Instr} {rest : List Bool} {s t : State}
    (h : s.Stands o f (encode i ++ rest)) (hi : WellFormed i) (e : decodePart readerSource i.part s = .ok (i, t)) :
    (∀ v, i = .raw v → t.opc = o ∧ t.flag = f) ∧ (∀ v, i = .lit v → t.opc = 0 ∧ t.flag = 1) ∧
    (∀ k, i = .dic k → t.opc = 0 ∧ t.flag = 0) ∧ (∀ op r, i = .copy op r → t.opc = op.opcode ∧ t.flag = f) := by
  refine ⟨?_, ?_, ?_, ?_⟩
  · rintro v rfl
    exact ((decodeRaw_gives readerSource_follows h).holds e).registers
  · rintro v rfl
    exact ((decodeOp_gives_lit readerSource_follows h).holds e).registers
  · rintro k rfl
    exact ((decodeOp_gives_dic readerSource_follows h).holds e).registers
  · rintro op r rfl
    rw [WellFormed, Instr.wellFormed_copy] at hi
    rw [Instr.part_copy] at e
    exact ((decodeOp_gives_copy readerSource_follows hi h).holds e).registers

end Sys2Proof.Machine
end

section
/-! SUPPORT. Runs of the machine, one step at a time, and the step that each kind of state takes (00_scope R7). -/

namespace Sys2Proof.Machine

theorem run_succ {M : Host.Core} {s t : M.State} (h : M.step s = .next t) (k : Nat) : M.run (k + 1) s = M.run k t := by
  rw [Host.Core.run, h]

theorem exists_step_of_run_succ {M : Host.Core} {k : Nat} {s u : M.State} (h : M.run (k + 1) s = .next u) :
    ∃ t, M.step s = .next t ∧ M.run k t = .next u := by
  rw [Host.Core.run] at h
  split at h
  · exact ⟨_, by assumption, h⟩
  · cases h
  · cases h

theorem steps_succ {s t : State} (h : step s = .next t) (k : Nat) : steps (k + 1) s = steps k t :=
  run_succ (M := Sys2Proof.core) h k

/-- A run that is not stopped takes its first step and goes on. -/
theorem exists_step_of_steps_succ {k : Nat} {s u : State} (h : steps (k + 1) s = .next u) :
    ∃ t, step s = .next t ∧ steps k t = .next u :=
  exists_step_of_run_succ (M := Sys2Proof.core) h

theorem step_of_unfinished_decode {s : State} (hrun : s.running = true) (hunf : s.unfinished = true)
    (hmode : s.cfgMode = .decode) : step s = decodeStep (dropStart s) := by
  have hunf' : (dropStart s).unfinished = true := hunf
  rw [step, machineStep, if_pos hrun, passStep, if_pos hunf', dropStart_cfgMode, hmode]

theorem step_of_finished {s : State} (hrun : s.running = true) (hunf : s.unfinished = false) :
    step s = .next (loopTest (dropStart s)) := by
  have hunf' : (dropStart s).unfinished = false := hunf
  rw [step, machineStep, if_pos hrun, passStep, hunf']
  rfl

theorem step_of_waiting {s : State} (hrun : s.running = false) : step s = .next (waitStep s) := by
  rw [step, machineStep, hrun]
  rfl

theorem waitStep_of_no_start {s : State} (h : s.ctrlStart = false) : waitStep s = dropStart s := by
  simp [waitStep, h]

/-- No operation moves BP or raises the command bit. -/
theorem exec_keeps_bitPos_ctrlStart {i : Instr} {s t : State} (h : exec i s = .next t) :
    t.bitPos = s.bitPos ∧ t.ctrlStart = s.ctrlStart := by
  induction i using Instr.familyCases with
  | raw v =>
    obtain ⟨_, rfl⟩ := writeRaw_next h
    simp [State.bitPos]
  | lit v =>
    obtain ⟨_, _, rfl⟩ := writePixel_next h
    simp [State.bitPos]
  | dic k =>
    obtain ⟨_, _, rfl⟩ := writePixel_next (s := { s with slot := k }) h
    simp [State.bitPos]
  | copy op r =>
    rw [exec_copy] at h
    obtain ⟨_, _, ⟨_, rfl⟩ | ⟨_, _, rfl⟩⟩ := copyRun_next h <;> simp [State.bitPos]

end Sys2Proof.Machine
end

section
/-! SUPPORT. A decode pass goes on through its stream until it ends (43_decoder_ops R196). -/

namespace Sys2Proof.Machine

/-- In a running pass with the invariant the test of the loop it is in succeeds (10_state R34). -/
theorem State.Inv.unfinished {s : State} (h : s.Inv) (hrun : s.running = true) : s.unfinished = true := by
  rcases State.running_iff.1 hrun with hp | hp
  · simpa [State.unfinished, hp] using h.cursor.1 hp
  · simpa [State.unfinished, hp] using (h.cursor.2 hp).1

/-- No step changes the engine or SLEN (10_state R20). -/
theorem step_mode_streamLen {s t : State} (h : step s = .next t) : t.cfgMode = s.cfgMode ∧ t.streamLen = s.streamLen := by
  obtain ⟨_, _, _, hmode, hslen, _⟩ := step_configuration h
  exact ⟨hmode, congrArg BitVec.toNat hslen⟩

/-- A step of a decode pass ends the pass or moves BP on by the bits of an operation, at least four. -/
theorem State.Inv.decode_progress {s : State} (h : s.Inv) (hrun : s.running = true) (hmode : s.cfgMode = .decode) :
    ∃ t, step s = .next t ∧ (t.ended ∨ t.running = true ∧ s.bitPos + 4 ≤ t.bitPos) := by
  obtain ⟨t, ht⟩ := invStepsNeverStop s h
  refine ⟨t, ht, ?_⟩
  have e := step_of_unfinished_decode hrun (h.unfinished hrun) hmode
  rcases decodeStep_cases (dropStart s) with ⟨i, v, hf, e'⟩ | ⟨v, _, e'⟩ <;> rw [e'] at e
  · obtain ⟨_, hfetch⟩ := bitPos_of_fetch (s := dropStart s) (h.reader hrun hmode) hf
    obtain ⟨hexec, _⟩ := exec_keeps_bitPos_ctrlStart (e.symm.trans ht)
    have hpos : s.bitPos + 4 ≤ t.bitPos := by
      rw [hexec, hfetch]
      exact Nat.add_le_add_left (four_le_length_encode i) _
    rcases step_phase_cases hrun ht with ⟨hp, _⟩ | ⟨hp, _⟩ | ⟨hp, _⟩ | ⟨hp, _⟩
    · exact .inr ⟨State.running_iff.2 (.inl hp), hpos⟩
    · exact .inr ⟨State.running_iff.2 (.inr hp), hpos⟩
    · exact .inl (.inl hp)
    · exact .inl (.inr hp)
  · cases e.symm.trans ht
    exact .inl (.inr rfl)

/-- A decode pass with at most `4 * n` bits left ends within `n + 1` steps. -/
theorem State.Inv.decode_ends {n : Nat} {s : State} (h : s.Inv) (hrun : s.running = true) (hmode : s.cfgMode = .decode)
    (hbits : 8 * s.streamLen ≤ s.bitPos + 4 * n) : ∃ k t, k ≤ n + 1 ∧ steps k s = .next t ∧ t.ended := by
  induction n generalizing s with
  | zero =>
    obtain ⟨t, ht, hended | ⟨hrun', hpos⟩⟩ := h.decode_progress hrun hmode
    · exact ⟨1, t, le_rfl, steps_succ ht 0, hended⟩
    · -- no four bits were left to move BP on by
      obtain ⟨hmode', hslen⟩ := step_mode_streamLen ht
      have hle := ((stepKeepsInv s t h ht).reader hrun' (hmode'.trans hmode)).bitPos_le
      omega
  | succ n ih =>
    obtain ⟨t, ht, hended | ⟨hrun', hpos⟩⟩ := h.decode_progress hrun hmode
    · exact ⟨1, t, by omega, steps_succ ht 0, hended⟩
    · obtain ⟨hmode', hslen⟩ := step_mode_streamLen ht
      obtain ⟨k, u, hk, hu, hended⟩ := ih (stepKeepsInv s t h ht) hrun' (hmode'.trans hmode) (by omega)
      exact ⟨k + 1, u, Nat.succ_le_succ hk, (steps_succ ht k).trans hu, hended⟩

end Sys2Proof.Machine
end

section
/-! SUPPORT. The bytes of a canvas after a forward copy (20_memory R70, 43_decoder_ops R193). -/

namespace Sys2Proof.Machine

theorem canvasAt_writeBytes (c : Memory) (a : Nat) (vs : List Byte) (b : Nat) :
    canvasAt (Memory.writeBytes c a vs) b =
      if h : a ≤ b ∧ b - a < vs.length then vs[b - a] else canvasAt c b := by
  unfold canvasAt
  rw [Memory.read?_writeBytes]
  split
  · rw [dif_pos (by omega), List.getElem?_eq_getElem (by omega), Option.getD_some]
  · rw [dif_neg (by omega)]

/-- Canvases that read alike below an offset read alike up to it once the same byte is written there. -/
theorem canvasAt_write_congr_below {c c' : Memory} {n : Nat} (h : ∀ a < n, canvasAt c' a = canvasAt c a) (v : Byte) :
    ∀ a < n + 1, canvasAt (Memory.write c' n v) a = canvasAt (Memory.write c n v) a := by
  intro a ha
  rw [canvasAt_write, canvasAt_write]
  split
  · rfl
  · exact h a (by omega)

/-- Copies of canvases that read alike below the destination read alike up to the end of the run, when the source is behind
the destination. -/
theorem copyForward_congr_below {c c' : Memory} {src dst count : Nat} (hsrc : src < dst)
    (h : ∀ a < dst, canvasAt c' a = canvasAt c a) :
    ∀ a < dst + count, canvasAt (copyForward c' src dst count) a = canvasAt (copyForward c src dst count) a := by
  induction count generalizing c c' src dst with
  | zero => exact h
  | succ n ih =>
    have hwrite := canvasAt_write_congr_below h (canvasAt c src)
    rw [copyForward, copyForward, h src hsrc]
    exact fun a ha => ih (Nat.succ_lt_succ hsrc) hwrite a (by omega)

/-- A copy sees no more of a canvas than what its bytes read. -/
theorem copyForward_congr {c c' : Memory} (h : ∀ a, canvasAt c' a = canvasAt c a) (src dst count a : Nat) :
    canvasAt (copyForward c' src dst count) a = canvasAt (copyForward c src dst count) a := by
  induction count generalizing c c' src dst with
  | zero => exact h a
  | succ n ih => exact ih (fun b => by rw [canvasAt_write, canvasAt_write, h src, h b]) _ _

theorem copyForward_add (c : Memory) (src dst m n : Nat) :
    copyForward c src dst (m + n) = copyForward (copyForward c src dst m) (src + m) (dst + m) n := by
  induction m generalizing c src dst with
  | zero => rw [Nat.zero_add]; rfl
  | succ m ih =>
    rw [Nat.succ_add, copyForward, ih, copyForward, Nat.succ_add_eq_add_succ, Nat.succ_add_eq_add_succ]

/-- A copy onto its own source leaves every byte as it reads. -/
theorem copyForward_self (c : Memory) (dst count a : Nat) : canvasAt (copyForward c dst dst count) a = canvasAt c a := by
  induction count generalizing c dst with
  | zero => rfl
  | succ n ih =>
    rw [copyForward, ih, canvasAt_write]
    split
    · rw [‹a = dst›]
    · rfl

/-- A copy repeats the bytes between its source and its destination, with their distance as period. -/
theorem copyForward_period (c : Memory) {src dst count i : Nat} (hsrc : src < dst) (hi : i < count) :
    canvasAt (copyForward c src dst count) (dst + i) = canvasAt c (src + i % (dst - src)) := by
  induction count generalizing c src dst i with
  | zero => omega
  | succ n ih =>
    rw [copyForward]
    cases i with
    | zero => rw [copyForward_outside _ _ _ _ _ (by omega), Nat.add_zero, canvasAt_write_same, Nat.zero_mod, Nat.add_zero]
    | succ i =>
      have hmod := Nat.mod_lt i (Nat.sub_pos_of_lt hsrc)
      rw [show dst + (i + 1) = dst + 1 + i by omega, ih _ (by omega : src + 1 < dst + 1) (by omega), Nat.add_sub_add_right,
        canvasAt_write, ← Nat.mod_add_mod i (dst - src) 1]
      split
      · -- the period is complete: what is read is the byte just written at the destination
        rw [show i % (dst - src) + 1 = dst - src by omega, Nat.mod_self, Nat.add_zero]
      · rw [Nat.mod_eq_of_lt (by omega : i % (dst - src) + 1 < dst - src), Nat.add_assoc, Nat.add_comm 1]

/-- A group of `p` bytes read whole and then written is copied as byte by byte, when it does not overlap its source. -/
theorem writeBytes_group (c : Memory) {p src dst : Nat} (h : src + p ≤ dst ∨ src = dst) (a : Nat) :
    canvasAt (Memory.writeBytes c dst ((List.range p).map fun b => canvasAt c (src + b))) a =
      canvasAt (copyForward c src dst p) a := by
  rw [canvasAt_writeBytes]
  simp only [List.length_map, List.length_range, List.getElem_map, List.getElem_range]
  split
  case isFalse hout => rw [copyForward_outside _ _ _ _ _ (by omega)]
  case isTrue hin =>
    obtain ⟨i, rfl⟩ := Nat.exists_eq_add_of_le hin.1
    rw [Nat.add_sub_cancel_left] at hin ⊢
    rcases h with h | rfl
    · rw [copyForward_period c (by omega) hin.2, Nat.mod_eq_of_lt (by omega)]
    · rw [copyForward_self]

/-- Copying group by group is copying byte by byte (43_decoder_ops R193). -/
theorem copyGroups_eq_copyForward (c : Memory) {p src dst : Nat} (n : Nat) (h : src + p ≤ dst ∨ src = dst) (a : Nat) :
    canvasAt (copyGroups c p src dst n) a = canvasAt (copyForward c src dst (n * p)) a := by
  induction n generalizing c src dst with
  | zero => rw [Nat.zero_mul]; rfl
  | succ n ih =>
    rw [copyGroups, ih _ (by omega), Nat.succ_mul, Nat.add_comm (n * p), copyForward_add]
    exact copyForward_congr (writeBytes_group c h) _ _ _ a

/-! ## Source offsets (43_decoder_ops R188 to R192) -/

/-- Over lines of whole pixel-groups a copy has its source on the grid of the cursor. -/
theorem sourceOffset_mod {op : CopyOp} {p l w src : Nat} (hl : l % p = 0) (hw : w % p = 0)
    (h : sourceOffset op p l w = some src) : src % p = 0 := by
  simp only [← Nat.dvd_iff_mod_eq_zero] at *
  have hp := dvd_refl p
  cases op <;> simp only [sourceOffset, Option.ite_none_right_eq_some, Option.some.injEq] at h
  case cprev => obtain ⟨_, rfl⟩ := h; exact Nat.dvd_sub hw hp
  all_goals subst h
  case cup => split; exacts [Nat.dvd_sub hw hl, dvd_zero p]
  case cupr => split; exacts [(Nat.dvd_sub hw hl).add hp, hp]
  case cupl => split; exacts [Nat.dvd_sub (Nat.dvd_sub hw hl) hp, dvd_zero p]
  case cprev2 => split; exacts [Nat.dvd_sub hw (hp.mul_left 2), dvd_zero p]

/-- Only CUPR over lines of one pixel-group copies from the cursor itself (43_decoder_ops R190, corner case b). -/
theorem sourceOffset_eq_cursor {op : CopyOp} {p l w : Nat} (hp : 0 < p) (hl : p ≤ l) (hw : 2 * p ≤ w)
    (h : sourceOffset op p l w = some w) : op = .cupr ∧ l = p := by
  cases op <;> simp only [sourceOffset, Option.ite_none_right_eq_some, Option.some.injEq] at h
  case cupr => exact ⟨rfl, by split at h <;> omega⟩
  case cprev => omega
  all_goals split at h <;> omega

end Sys2Proof.Machine
end

section
/-! SUPPORT. The state after an operation of a decode pass (43_decoder_ops R182 to R192): its writes, and PHASE after the loop
tests. -/

namespace Sys2Proof.Machine

/-! ## The loop tests of a decode pass change PHASE alone (43_decoder_ops R183, R195) -/

theorem loopTest_of_decode {s : State} (hmode : s.cfgMode = .decode) :
    loopTest s = { s with phase := (loopTest s).phase } := by
  rcases loopTest_cases s with ⟨e, _⟩ | ⟨e, _⟩ | ⟨e, _⟩ <;> rw [e]
  rw [finish_decode (s := { s with phase := .mainLoop }) hmode]

theorem loopTest_of_decode_prefix {s : State} (hmode : s.cfgMode = .decode) (hp : s.phase = .litPrefix) :
    loopTest s = { s with
      phase := if s.cur < s.prefixBytes then .litPrefix else if s.cur < s.size then .mainLoop else .done } := by
  by_cases hprefix : s.cur < s.prefixBytes
  · rw [if_pos hprefix, ← hp]
    exact loopTest_of_continuing (fun _ => hprefix) fun hp' => by cases hp.symm.trans hp'
  rw [if_neg hprefix]
  by_cases hsize : s.cur < s.size
  · rw [if_pos hsize]
    exact loopTest_of_prefix_complete hp (Nat.le_of_not_lt hprefix) hsize
  · rw [if_neg hsize, loopTest_of_canvas_full (.inl hp) (Nat.le_of_not_lt hsize)]
    exact finish_decode hmode

theorem loopTest_of_decode_loop {s : State} (hmode : s.cfgMode = .decode) (hp : s.phase = .mainLoop) :
    loopTest s = { s with phase := if s.size ≤ s.cur then .done else .mainLoop } := by
  by_cases hsize : s.size ≤ s.cur
  · rw [if_pos hsize, loopTest_of_canvas_full (.inr hp) hsize]
    exact finish_decode hmode
  · rw [if_neg hsize, ← hp]
    exact loopTest_of_cur_lt_size hp (Nat.lt_of_not_le hsize)

/-! ## The operations -/

/-- LIT and DIC inside the canvas, `r` being the reference byte. -/
theorem writePixel_of_bounds (value : Byte → Byte) {s : State} {r : Byte} (hp : s.bpp ≤ s.cur) (h : s.cur < s.size)
    (hr : s.canvasByte (s.cur - s.bpp) = r) :
    writePixel value s = .next (loopTest { s with
      ref := r, val := value r, canvas := Memory.write s.canvas s.cur (value r), dict := update s.dict r (value r),
      cur := s.cur + s.bpp }) := by
  subst hr
  obtain ⟨t, ht⟩ := writePixel_gives_next value hp h
  obtain ⟨_, _, rfl⟩ := writePixel_next ht
  exact ht

/-- LIT and DIC at a place of LOOP (43_decoder_ops R185, R186). -/
theorem writePixel_completes (value : Byte → Byte) {s : State} (hphase : s.phase = .mainLoop)
    (hmode : s.cfgMode = .decode) (hp : s.bpp ≤ s.cur) (h : s.cur < s.size) :
    writePixel value s = .next { s with
      ref := s.canvasByte (s.cur - s.bpp), val := value (s.canvasByte (s.cur - s.bpp)),
      canvas := Memory.write s.canvas s.cur (value (s.canvasByte (s.cur - s.bpp))),
      dict := update s.dict (s.canvasByte (s.cur - s.bpp)) (value (s.canvasByte (s.cur - s.bpp))),
      cur := s.cur + s.bpp,
      phase := if s.size ≤ s.cur + s.bpp then .done else .mainLoop } := by
  rw [writePixel_of_bounds value hp h rfl, loopTest_of_decode_loop]
  · rfl
  · exact hmode
  · exact hphase

/-- Every copy whose run fits the canvas, from wherever its source is (43_decoder_ops R187). -/
theorem exec_copy_completes {op : CopyOp} {r : Run} {s : State} {src : Nat} (hphase : s.phase = .mainLoop)
    (hmode : s.cfgMode = .decode) (hsrc : sourceOffset op s.bpp s.lineBytes s.cur = some src)
    (hfit : s.cur + (runLen r).toNat * s.bpp ≤ s.size) (hread : s.size ≠ 0 → src ≤ s.cur) :
    exec (.copy op r) s = .next { s with
      len := runLen r, w := s.cur, src := src,
      canvas := copyForward s.canvas src s.cur ((runLen r).toNat * s.bpp),
      cur := s.cur + (runLen r).toNat * s.bpp,
      phase := if s.size ≤ s.cur + (runLen r).toNat * s.bpp then .done else .mainLoop } := by
  rw [exec_copy, copyRun_of_fits hsrc hfit fun hcount => by have := hread (by omega); omega, loopTest_of_decode_loop]
  · rfl
  · exact hmode
  · exact hphase

theorem State.bpp_pos_of_legal {s : State} (h : s.configLegal = true) : 0 < s.bpp := by
  rcases State.bpp_of_legal h with h | h <;> omega

theorem State.lineBytes_mod_bpp (s : State) : s.lineBytes % s.bpp = 0 := Nat.mul_mod_left _ _

/-- A line of one pixel-group is one pixel wide (10_state R21). -/
theorem State.cfgWidth_eq_one {s : State} (hp : 0 < s.bpp) (h : s.lineBytes = s.bpp) : s.cfgWidth = 1 :=
  BitVec.eq_of_toNat_eq (Nat.eq_of_mul_eq_mul_right hp (h.trans (Nat.one_mul _).symm))

end Sys2Proof.Machine
end

section
/-! SUPPORT. Two decode passes over different canvases (10_state R35, 43_decoder_ops R197): an operation does the same to both,
and what it writes does not depend on the canvas at or past CUR. -/

namespace Sys2Proof.Machine

/-- The state with the canvas `c` in place of its own. -/
def State.withCanvas (s : State) (c : Memory) : State := { s with canvas := c }

/-- The canvas `c` reads as that of the machine below CUR. -/
def State.SameBelow (s : State) (c : Memory) : Prop := ∀ a < s.cur, canvasAt c a = s.canvasByte a

/-- The outcome `o` gives the state `t` but for the canvas at and past CUR. -/
def State.GivenBelow (t : State) (o : Host.Outcome State Fault Refusal) : Prop :=
  ∃ c, o = .next (t.withCanvas c) ∧ t.SameBelow c

/-! ## The Bit Reader does not look at the canvas (20_memory R60) -/

theorem takeBits_withCanvas (n : Nat) (s : State) (c : Memory) :
    (takeBits n s).Agrees (fun t t' => t' = t.withCanvas c) (takeBits n (s.withCanvas c)) := by
  by_cases hshort : s.bitCnt.toNat + 8 * (s.streamLen - s.spos) < n
  · rw [takeBits, takeBits, if_pos hshort, if_pos (by exact hshort)]
    exact .error rfl
  · have hrefill : refill (s.withCanvas c) n n s.bitBuf.toNat s.bitCnt.toNat s.spos =
        refill s n n s.bitBuf.toNat s.bitCnt.toNat s.spos :=
      refill_congr (s := s) (t := s.withCanvas c) (len := s.streamLen) (fun _ _ => rfl) (Nat.le_of_not_lt hshort)
    rw [takeBits, takeBits, if_neg hshort, if_neg (by exact hshort)]
    dsimp only [State.withCanvas] at hrefill ⊢
    rw [hrefill]
    exact .ok _ rfl

theorem readerSource_agrees_withCanvas (c : Memory) :
    readerSource.Agrees readerSource fun s s' => s' = s.withCanvas c where
  read {s _} n _ h := h ▸ takeBits_withCanvas n s c
  setOpc _ h := by rw [h]; rfl
  setFlag _ h := by rw [h]; rfl

theorem fetch_withCanvas (s : State) (c : Memory) :
    (fetch s).Agrees (fun t t' => t' = t.withCanvas c) (fetch (s.withCanvas c)) :=
  decodePart_agrees (readerSource_agrees_withCanvas c) s.part rfl

/-! ## The operations -/

theorem loopTest_withCanvas {s : State} (hmode : s.cfgMode = .decode) (c : Memory) :
    loopTest (s.withCanvas c) = (loopTest s).withCanvas c := by
  rcases loopTest_cases s with ⟨e, hprefix, hloop⟩ | ⟨e, hp, hprefix, h⟩ | ⟨e, h, hp⟩ <;> rw [e]
  · exact loopTest_of_continuing hprefix hloop
  · exact loopTest_of_prefix_complete hp hprefix h
  · rw [loopTest_of_canvas_full (s := s.withCanvas c) hp h, finish_decode (by exact hmode), finish_decode (by exact hmode)]
    rfl

/-- The loop tests end both steps alike. -/
theorem State.SameBelow.loopTest {s : State} {c : Memory} (h : s.SameBelow c) (hmode : s.cfgMode = .decode) :
    (Machine.loopTest s).GivenBelow (.next (Machine.loopTest (s.withCanvas c))) :=
  ⟨c, by rw [loopTest_withCanvas hmode], by simpa [State.SameBelow, State.canvasByte] using h⟩

theorem writeRaw_withCanvas {v : Byte} {s t : State} {c : Memory} (h : s.SameBelow c) (hmode : s.cfgMode = .decode)
    (e : writeRaw v s = .next t) : t.GivenBelow (writeRaw v (s.withCanvas c)) := by
  obtain ⟨hcur, rfl⟩ := writeRaw_next e
  rw [writeRaw_of_cur_lt_size v (by exact hcur)]
  refine State.SameBelow.loopTest (c := Memory.write c s.cur v) ?_ hmode
  exact canvasAt_write_congr_below h v

/-- With one byte per pixel LIT and DIC write every byte they move over. -/
theorem writePixel_withCanvas {value : Byte → Byte} {s t : State} {c : Memory} (h : s.SameBelow c)
    (hmode : s.cfgMode = .decode) (hbpp : s.bpp = 1) (e : writePixel value s = .next t) :
    t.GivenBelow (writePixel value (s.withCanvas c)) := by
  obtain ⟨hp, hcur, rfl⟩ := writePixel_next e
  have href : canvasAt c (s.cur - s.bpp) = s.canvasByte (s.cur - s.bpp) := h _ (by omega)
  rw [writePixel_of_bounds (s := s.withCanvas c) value hp hcur href]
  refine State.SameBelow.loopTest (c := Memory.write c s.cur (value (s.canvasByte (s.cur - s.bpp)))) ?_ hmode
  have hwrite := canvasAt_write_congr_below h (value (s.canvasByte (s.cur - s.bpp)))
  rw [← hbpp] at hwrite
  exact hwrite

/-- A copy from behind the cursor reads bytes below it and bytes it has written. -/
theorem copyRun_withCanvas {op : CopyOp} {n : BitVec 32} {s t : State} {c : Memory} (h : s.SameBelow c)
    (hmode : s.cfgMode = .decode) (hbehind : ∀ src, sourceOffset op s.bpp s.lineBytes s.cur = some src → src < s.cur)
    (e : copyRun op n s = .next t) : t.GivenBelow (copyRun op n (s.withCanvas c)) := by
  obtain ⟨src, hsrc, ⟨hover, rfl⟩ | ⟨hfit, hread, rfl⟩⟩ := copyRun_next e
  · exact ⟨c, copyRun_of_overrun (s := s.withCanvas c) hsrc hover, h⟩
  · rw [copyRun_of_fits (s := s.withCanvas c) hsrc hfit hread]
    refine State.SameBelow.loopTest (c := copyForward c src s.cur (n.toNat * s.bpp)) ?_ hmode
    exact copyForward_congr_below (hbehind src hsrc) h

/-! ## The pass -/

/-- A decode pass with one byte per pixel and at least two columns, of which no START is pending: where its cursor stands in
LOOP and at its end. -/
structure State.TwoColumnPass (s : State) : Prop where
  decoding : s.cfgMode = .decode
  bpp : s.bpp = 1
  columns : 2 ≤ s.cfgWidth.toNat
  noStart : s.ctrlStart = false
  produced : s.phase = .mainLoop → 2 ≤ s.cur
  full : s.phase = .done → s.size ≤ s.cur

/-- In such a pass every copy has its source behind the cursor (43_decoder_ops R193). -/
theorem State.TwoColumnPass.source_behind {s : State} (h : s.TwoColumnPass) (hcur : 2 ≤ s.cur) {op : CopyOp} {src : Nat}
    (hsrc : sourceOffset op s.bpp s.lineBytes s.cur = some src) : src < s.cur := by
  have hline : 2 ≤ s.lineBytes := by rw [State.lineBytes, h.bpp, Nat.mul_one]; exact h.columns
  rw [h.bpp] at hsrc
  obtain ⟨src', hsrc', hle⟩ := sourceOffset_le_cursor op (by omega : 1 ≤ s.lineBytes) hcur
  obtain rfl : src' = src := Option.some.inj (hsrc'.symm.trans hsrc)
  refine lt_of_le_of_ne hle fun heq => ?_
  obtain ⟨_, hone⟩ := sourceOffset_eq_cursor Nat.one_pos (by omega : 1 ≤ s.lineBytes) hcur (heq ▸ hsrc)
  omega

/-- An operation does the same over a canvas that reads alike below CUR. -/
theorem State.TwoColumnPass.exec_withCanvas {s t : State} {i : Instr} {c : Memory} (h : s.TwoColumnPass)
    (hsame : s.SameBelow c) (hi : i.part = .operations → 2 ≤ s.cur) (e : exec i s = .next t) :
    t.GivenBelow (exec i (s.withCanvas c)) := by
  induction i using Instr.familyCases with
  | raw v => exact writeRaw_withCanvas hsame h.decoding e
  | lit v => exact writePixel_withCanvas hsame h.decoding h.bpp e
  | dic k => exact writePixel_withCanvas (s := { s with slot := k }) hsame h.decoding h.bpp e
  | copy op r =>
    rw [exec_copy] at e ⊢
    exact copyRun_withCanvas hsame h.decoding (fun _ => h.source_behind (hi (Instr.part_copy op r))) e

/-- Fetching is part of a step of such a pass. -/
theorem State.TwoColumnPass.of_fetches {s t : State} (h : s.TwoColumnPass) (hf : Fetches s t) : t.TwoColumnPass := by
  obtain ⟨_, _, _, _, _, rfl⟩ := hf.frame
  exact { h with }

/-- The operation that is fetched, or the fault that is taken, is the same over both canvases. -/
theorem State.TwoColumnPass.decodeStep_withCanvas {s t : State} {c : Memory} (h : s.TwoColumnPass)
    (hrun : s.running = true) (hsame : s.SameBelow c) (e : decodeStep s = .next t) :
    t.GivenBelow (decodeStep (s.withCanvas c)) := by
  have hagrees := fetch_withCanvas s c
  generalize hf : fetch s = r at hagrees
  generalize hf' : fetch (s.withCanvas c) = r' at hagrees
  cases hagrees with
  | @ok i u _ hu =>
    subst hu
    rw [decodeStep, hf] at e
    rw [decodeStep, hf']
    have hfetches := fetch_ok hf
    refine (h.of_fetches hfetches).exec_withCanvas ?_ ?_ e
    · obtain ⟨_, _, _, _, _, rfl⟩ := hfetches.frame
      exact hsame
    · rcases fetch_instr hf with ⟨_, v, rfl⟩ | ⟨hp, _⟩
      · exact nofun
      · exact fun _ => (h.of_fetches hfetches).produced (hfetches.phase.trans (State.mainLoop_of_running hrun hp))
  | @error u _ hu =>
    subst hu
    rw [decodeStep, hf] at e
    rw [decodeStep, hf']
    obtain ⟨_, _, _, _, _, rfl⟩ := (fetch_error hf).frame
    cases e
    exact ⟨c, rfl, hsame⟩

/-- A step of such a pass does the same over a canvas that reads alike below CUR. -/
theorem State.TwoColumnPass.step_withCanvas {s t : State} {c : Memory} (h : s.TwoColumnPass) (hsame : s.SameBelow c)
    (e : step s = .next t) : t.GivenBelow (step (s.withCanvas c)) := by
  have hdrop : (dropStart s).TwoColumnPass := { h with noStart := rfl }
  rcases step_cases s with ⟨hrun, hunf, _, e'⟩ | ⟨_, _, henc, _⟩ | ⟨hrun, hunf, e'⟩ | ⟨hrun, e'⟩
  · rw [step_of_unfinished_decode (by exact hrun) (by exact hunf) (by exact h.decoding)]
    exact hdrop.decodeStep_withCanvas hrun hsame (e'.symm.trans e)
  · cases h.decoding.symm.trans henc
  · cases e'.symm.trans e
    rw [step_of_finished (by exact hrun) (by exact hunf)]
    exact State.SameBelow.loopTest (s := dropStart s) hsame h.decoding
  · cases e'.symm.trans e
    rw [step_of_waiting (by exact hrun), waitStep_of_no_start h.noStart, waitStep_of_no_start (by exact h.noStart)]
    exact ⟨c, rfl, hsame⟩

/-- A step of the decoder engine raises no command bit. -/
theorem decodeStep_ctrlStart {s t : State} (e : decodeStep s = .next t) : t.ctrlStart = s.ctrlStart := by
  rcases decodeStep_cases s with ⟨i, v, hf, e'⟩ | ⟨v, hf, e'⟩ <;> rw [e'] at e
  · obtain ⟨_, hstart⟩ := exec_keeps_bitPos_ctrlStart e
    obtain ⟨_, _, _, _, _, rfl⟩ := (fetch_ok hf).frame
    exact hstart
  · cases e
    obtain ⟨_, _, _, _, _, rfl⟩ := (fetch_error hf).frame
    rfl

/-- A step that leads into LOOP leaves two bytes behind the cursor, and one that ends the pass fills the canvas. -/
theorem State.TwoColumnPass.cursor_of_step {s t : State} (h : s.TwoColumnPass) (hrun : s.running = true)
    (e : step s = .next t) : (t.phase = .mainLoop → 2 ≤ t.cur) ∧ (t.phase = .done → t.size ≤ t.cur) := by
  obtain ⟨_, _, hp, _⟩ := step_configuration e
  have hbpp : t.bpp = 1 := (State.bpp_congr hp).trans h.bpp
  obtain ⟨hcur, _⟩ := cursorNeverDecreases s t hrun e
  rcases step_phase_cases hrun e with ⟨hp, _⟩ | ⟨hp, hprefix, hlt⟩ | ⟨hp, hfull⟩ | ⟨hp, _⟩ <;> rw [hp]
  · exact ⟨nofun, nofun⟩
  · refine ⟨fun _ => ?_, nofun⟩
    rcases State.running_iff.1 hrun with hs | hs
    · have hle := hprefix hs
      rw [State.prefixBytes, hbpp] at hle
      omega
    · exact (h.produced hs).trans hcur
  · exact ⟨nofun, fun _ => hfull⟩
  · exact ⟨nofun, nofun⟩

/-- A step keeps what such a pass is (10_state R31, R34). -/
theorem State.TwoColumnPass.of_step {s t : State} (h : s.TwoColumnPass) (e : step s = .next t) : t.TwoColumnPass := by
  cases hrun : s.running with
  | false =>
    rw [step_waiting hrun e, waitStep_of_no_start h.noStart]
    exact { h with noStart := rfl }
  | true =>
    obtain ⟨hw, _, hp, hm, _⟩ := step_configuration e
    obtain ⟨hloop, hdone⟩ := h.cursor_of_step hrun e
    refine ⟨hm.trans h.decoding, (State.bpp_congr hp).trans h.bpp, hw ▸ h.columns, ?_, hloop, hdone⟩
    rcases step_cases s with ⟨_, _, _, e'⟩ | ⟨_, _, henc, _⟩ | ⟨_, _, e'⟩ | ⟨hidle, _⟩
    · exact decodeStep_ctrlStart (e'.symm.trans e)
    · cases h.decoding.symm.trans henc
    · cases e'.symm.trans e
      exact loopTest_ctrlStart _
    · cases hrun.symm.trans hidle

/-- Any number of steps of such a pass does the same over a canvas that reads alike below CUR. -/
theorem State.TwoColumnPass.steps_withCanvas {k : Nat} {s t : State} {c : Memory} (h : s.TwoColumnPass)
    (hsame : s.SameBelow c) (e : steps k s = .next t) : t.TwoColumnPass ∧ t.GivenBelow (steps k (s.withCanvas c)) := by
  induction k generalizing s c with
  | zero =>
    cases e
    exact ⟨h, c, rfl, hsame⟩
  | succ k ih =>
    obtain ⟨u, hu, e⟩ := exists_step_of_steps_succ e
    obtain ⟨c', hu', hsame'⟩ := h.step_withCanvas hsame hu
    rw [steps_succ hu']
    exact ih (h.of_step hu) hsame' e

/-- START begins such a pass, over any canvas (70_reset R291). -/
theorem State.starting.twoColumnPass {s : State} (h : s.starting) (hmode : s.cfgMode = .decode) (hbpp : s.cfgBpp = 1)
    (hwidth : 2 ≤ s.cfgWidth.toNat) :
    step s = .next (startDecode (dropStart s)) ∧ (startDecode (dropStart s)).TwoColumnPass := by
  obtain ⟨hidle, hstart, hlegal⟩ := h
  refine ⟨?_, hmode, by simp [State.bpp, hbpp], hwidth, rfl, fun hp => ?_, fun hp => ?_⟩
  · rw [step_of_waiting hidle, waitStep, if_pos ⟨hstart, hlegal⟩, startPass, dropStart_cfgMode, hmode]
  · rw [startDecode_phase] at hp
    split at hp <;> cases hp
  · rw [startDecode_phase] at hp
    split at hp
    · exact (by assumption : (dropStart s).size = 0).le
    · cases hp

end Sys2Proof.Machine
end

section
/-! PROOFS. The obligations about the decoder's operations and passes (43_decoder_ops). -/

namespace Sys2Proof.Machine

/-- Settles O49: every step of the pass takes at least four of the 8 * SLEN bits, or ends the pass. -/
theorem decodePassEnds : Obligations.DecodePassEnds := fun _ h hrun hmode =>
  h.decode_ends hrun hmode (by omega)

/-- Settles O60: after START both passes stand at CUR = 0, and every step keeps them alike below CUR, which is SIZE at the
end. -/
theorem decodedImageIgnoresOldCanvas : Obligations.DecodedImageIgnoresOldCanvas := by
  intro s t c k hstarting hmode hbpp hwidth hk e
  obtain ⟨k, rfl⟩ := Nat.exists_eq_add_of_le' hk
  obtain ⟨hstep, hpass⟩ := hstarting.twoColumnPass hmode hbpp hwidth
  have hstep' : step (s.withCanvas c) = .next ((startDecode (dropStart s)).withCanvas c) :=
    (State.starting.twoColumnPass (s := s.withCanvas c) hstarting hmode hbpp hwidth).1
  rw [steps_succ hstep] at e
  obtain ⟨hend, c', e', hsame⟩ := hpass.steps_withCanvas (c := c) (fun a ha => absurd ha (Nat.not_lt_zero a)) e
  exact ⟨t.withCanvas c', (steps_succ hstep' k).trans e', rfl, rfl, rfl, rfl,
    fun hdone a ha => hsame a (ha.trans_le (hend.full hdone))⟩

/-- Settles O26, by the laws of the source offsets and of the forward copy. -/
theorem copyRepeatsPeriod : Obligations.CopyRepeatsPeriod := by
  refine ⟨fun op s hlegal hsize hprod hgrid => ?_, fun c src w k => ⟨fun hsrc => ⟨?_, ?_⟩, ?_⟩,
    fun c p src w n h => copyGroups_eq_copyForward c n h⟩
  · have hp := State.bpp_pos_of_legal hlegal
    have hline := State.bpp_le_lineBytes hsize
    obtain ⟨src, hsrc, hle⟩ := sourceOffset_le_cursor op hline hprod
    refine ⟨src, hsrc, sourceOffset_mod s.lineBytes_mod_bpp hgrid hsrc, hle, ?_⟩
    rintro rfl
    obtain ⟨hop, hwidth⟩ := sourceOffset_eq_cursor hp hline hprod hsrc
    exact ⟨hop, State.cfgWidth_eq_one hp hwidth⟩
  · exact fun i hi => copyForward_period c hsrc hi
  · exact fun a ha => copyForward_outside c src w k a ha
  · rintro rfl
    exact copyForward_self c src k

/-- Settles O28, from the one next state that LIT and DIC have. -/
theorem litAndDicWriteOneByte : Obligations.LitAndDicWriteOneByte := by
  intro i s t hi hmode h
  obtain ⟨value, k, hwrite, hslot⟩ : ∃ value k, writePixel value { s with slot := k } = .next t ∧
      ((∃ v, i = .lit v) → k = s.slot) := by
    rcases hi with ⟨v, rfl⟩ | ⟨k, rfl⟩
    · exact ⟨_, s.slot, h, fun _ => rfl⟩
    · exact ⟨_, k, h, nofun⟩
  obtain ⟨_, _, rfl⟩ := writePixel_next hwrite
  rw [loopTest_of_decode (by exact hmode)]
  exact ⟨fun a ha => canvasAt_write_other _ _ ha, rfl, fun r hr => dictList_update_of_ne hr _ _, hslot, rfl⟩

/-- Settles O29, from the next states that RAW and the copies have. -/
theorem rawAndCopiesWriteOnlyTheirBytes : Obligations.RawAndCopiesWriteOnlyTheirBytes := by
  constructor
  · intro v s t hmode h
    obtain ⟨_, rfl⟩ := writeRaw_next h
    rw [loopTest_of_decode (by exact hmode)]
    exact ⟨fun a ha => canvasAt_write_other _ _ ha, rfl, rfl⟩
  · intro op r s t hmode h count
    rw [exec_copy] at h
    obtain ⟨src, _, ⟨hover, rfl⟩ | ⟨hfit, _, rfl⟩⟩ := copyRun_next h
    · exact ⟨fun _ _ => rfl, fun _ => ⟨rfl, rfl⟩, fun hfit => absurd hover (Nat.not_lt_of_le hfit), rfl⟩
    · rw [loopTest_of_decode (by exact hmode)]
      exact ⟨fun a ha => copyForward_outside _ _ _ _ a ha, fun hover => absurd hover (Nat.not_lt_of_le hfit),
        fun _ => ⟨rfl, rfl⟩, rfl⟩

/-- Settles O30: over lines of one pixel-group CUPR copies from the cursor onto itself. -/
theorem onePixelWideUpRightKeepsCanvas : Obligations.OnePixelWideUpRightKeepsCanvas := by
  intro r s hphase hmode hlegal hwidth hprod hfit
  have hp := State.bpp_pos_of_legal hlegal
  have hline : s.lineBytes = s.bpp := by rw [State.lineBytes, hwidth]; exact Nat.one_mul _
  have hsrc : sourceOffset .cupr s.bpp s.lineBytes s.cur = some s.cur := by
    rw [hline, sourceOffset, if_pos (by omega), Nat.sub_add_cancel (by omega)]
  exact ⟨_, exec_copy_completes hphase hmode hsrc hfit fun _ => le_rfl, rfl, rfl, copyForward_self s.canvas s.cur _⟩

/-- Settles O17: the byte is on the canvas, and the loop tests of PREFIX choose the phase. -/
theorem rawWritesPrefixByte : Obligations.RawWritesPrefixByte := by
  intro v s hphase hmode hcur
  refine (writeRaw_of_cur_lt_size v (hcur.trans_le s.prefixBytes_le_size)).trans ?_
  rw [loopTest_of_decode_prefix]
  · rfl
  · exact hmode
  · exact hphase

/-- Settles O18: LIT gives its own byte, whatever the reference byte is. -/
theorem litWritesByteAndUpdatesDictionary : Obligations.LitWritesByteAndUpdatesDictionary :=
  fun v _ hphase hmode hp h => writePixel_completes (fun _ => v) hphase hmode hp h

/-- Settles O19: DIC gives the byte in its slot of the reference byte's list. -/
theorem dicWritesSlotAndUpdatesDictionary : Obligations.DicWritesSlotAndUpdatesDictionary :=
  fun k s hphase hmode hp h => writePixel_completes (s := { s with slot := k }) (fun r => lookup s.dict r k) hphase hmode hp h

/-- Settles O20: with a pixel-group behind the cursor CPREV has a source, and it is behind the cursor. -/
theorem cprevCopiesPreviousPixel : Obligations.CprevCopiesPreviousPixel :=
  fun _ _ hphase hmode hp hfit => exec_copy_completes hphase hmode (if_pos hp) hfit fun _ => Nat.sub_le _ _

/-- Settles O21: neither branch of CUP's source is past the cursor. -/
theorem cupCopiesPreviousLine : Obligations.CupCopiesPreviousLine :=
  fun _ _ hphase hmode hfit => exec_copy_completes hphase hmode rfl hfit fun _ => by split <;> omega

/-- Settles O22: a line holds a pixel-group, so that CUPR's main branch is not past the cursor; the other is P itself. -/
theorem cuprCopiesUpRight : Obligations.CuprCopiesUpRight :=
  fun _ _ hphase hmode hp hfit => exec_copy_completes hphase hmode rfl hfit fun hsize => by
    have hline := State.bpp_le_lineBytes (Nat.pos_of_ne_zero hsize)
    split <;> omega

/-- Settles O23: neither branch of CUPL's source is past the cursor. -/
theorem cuplCopiesUpLeft : Obligations.CuplCopiesUpLeft :=
  fun _ _ hphase hmode hfit => exec_copy_completes hphase hmode rfl hfit fun _ => by split <;> omega

/-- Settles O24: neither branch of CPREV2's source is past the cursor. -/
theorem cprev2CopiesTwoBack : Obligations.Cprev2CopiesTwoBack :=
  fun _ _ hphase hmode hfit => exec_copy_completes hphase hmode rfl hfit fun _ => by split <;> omega

/-- Settles O31: the machine stands before the encoding of the operation, fetches it and passes its bits. -/
theorem stepRunsDecodedInstruction : Obligations.StepRunsDecodedInstruction := by
  intro s i rest hrun hunf hmode hreader hdecode
  obtain ⟨hi, hpart, hbits⟩ := spelledBy_of_decode hdecode
  have hstands : (dropStart s).Stands s.opc s.flag (encode i ++ rest) :=
    ⟨hreader, (remainingBits_congr (s := s) (t := dropStart s) rfl rfl rfl).trans hbits, rfl, rfl⟩
  obtain ⟨o, f, t, e, ht⟩ := decodePart_gives readerSource_follows hi hstands
  have hfetch : fetch (dropStart s) = .ok (i, t) := by
    rw [fetch, show (dropStart s).part = i.part from hpart.symm]
    exact e
  refine ⟨t, ?_, (fetch_ok hfetch).eq_with, ht.reader, (bitPos_of_fetch (s := dropStart s) hreader hfetch).2, ht.bits,
    hstands.fetched_registers hi e⟩
  rw [step_of_unfinished_decode hrun hunf hmode, decodeStep, hfetch]

end Sys2Proof.Machine
end

section
/-! SUPPORT. The match finder (44_encoder R223 to R225): which candidates it admits, what the run of a candidate is, and which
one it selects. -/

namespace Sys2Proof.Machine

/-! ## Admission (R223) -/

/-- The strict test of CUPR's source leaves out the lines of a single pixel-group (92 D15). -/
theorem admitted_cupr_iff {p l w : Nat} : admitted .cupr p l w = true ↔ l < w ∧ p < l := by
  simp only [admitted, decide_eq_true_eq]
  omega

/-- An admitted candidate has its main source, strictly behind the cursor (R223, 92 D15). -/
theorem sourceOffset_of_admitted {op : CopyOp} {p l w : Nat} (hp : 0 < p) (hl : p ≤ l) (h : admitted op p l w = true) :
    ∃ src, sourceOffset op p l w = some src ∧ src < w := by
  cases op <;> simp only [admitted, decide_eq_true_eq] at h
  case cprev => exact ⟨w - p, if_pos (by omega), by omega⟩
  case cup => exact ⟨w - l, congrArg some (if_pos h), by omega⟩
  case cupr => exact ⟨w - l + p, congrArg some (if_pos h.1), h.2⟩
  case cupl => exact ⟨w - l - p, congrArg some (if_pos h), by omega⟩
  case cprev2 => exact ⟨w - 2 * p, congrArg some (if_pos h), by omega⟩

/-- A line longer than one pixel-group has at least two columns (10_state R21). -/
theorem State.bpp_lt_lineBytes_iff {s : State} (hp : 0 < s.bpp) : s.bpp < s.lineBytes ↔ 2 ≤ s.cfgWidth.toNat := by
  have h := Nat.mul_lt_mul_right (b := 1) (c := s.cfgWidth.toNat) hp
  rwa [Nat.one_mul] at h

/-! ## The run of a candidate (R224) -/

theorem sameGroup_iff {c : Memory} {p a b : Nat} :
    sameGroup c p a b = true ↔ ∀ j < p, canvasAt c (a + j) = canvasAt c (b + j) := by
  induction p generalizing a b with
  | zero => exact iff_of_true rfl fun _ hj => absurd hj (Nat.not_lt_zero _)
  | succ p ih =>
    rw [sameGroup, Bool.and_eq_true, beq_iff_eq, ih]
    refine ⟨fun ⟨hfirst, hrest⟩ j hj => ?_, fun h => ⟨h 0 (Nat.succ_pos p), fun j hj => ?_⟩⟩
    · cases j with
      | zero => exact hfirst
      | succ j => simpa only [Nat.add_assoc, Nat.add_comm 1] using hrest j (Nat.lt_of_succ_lt_succ hj)
    · simpa only [Nat.add_assoc, Nat.add_comm 1] using h (j + 1) (Nat.succ_lt_succ hj)

/-- The bytes of a run match, from its source and from its destination. -/
theorem canvasAt_of_lt_matchRun {c : Memory} {p src w limit j : Nat} (hj : j < matchRun c p src w limit * p) :
    canvasAt c (src + j) = canvasAt c (w + j) := by
  induction limit generalizing src w j with
  | zero => simp [matchRun] at hj
  | succ limit ih =>
    rw [matchRun] at hj
    split at hj
    case isTrue hgroup =>
      rcases Nat.lt_or_ge j p with hfirst | hrest
      · exact sameGroup_iff.1 hgroup j hfirst
      · obtain ⟨i, rfl⟩ := Nat.exists_eq_add_of_le hrest
        rw [Nat.succ_mul] at hj
        simpa only [Nat.add_assoc] using ih (src := src + p) (w := w + p) (j := i) (by omega)
    case isFalse => simp at hj

/-- A run shorter than its limit ends before a group that differs. -/
theorem not_sameGroup_matchRun {c : Memory} {p src w limit : Nat} (h : matchRun c p src w limit < limit) :
    sameGroup c p (src + matchRun c p src w limit * p) (w + matchRun c p src w limit * p) = false := by
  induction limit generalizing src w with
  | zero => exact absurd h (Nat.not_lt_zero _)
  | succ limit ih =>
    rw [matchRun] at h ⊢
    split at h
    case isTrue hgroup =>
      have hrest := ih (src := src + p) (w := w + p) (Nat.lt_of_succ_lt_succ h)
      rw [if_pos hgroup, Nat.succ_mul, Nat.add_comm _ p, ← Nat.add_assoc, ← Nat.add_assoc]
      exact hrest
    case isFalse hgroup => simp [hgroup]

theorem candidateRun_of_not_admitted {s : State} {op : CopyOp} (h : admitted op s.bpp s.lineBytes s.cur = false) :
    candidateRun s op = 0 := by
  simp [candidateRun, h]

theorem candidateRun_of_admitted {s : State} {op : CopyOp} {src : Nat} (h : admitted op s.bpp s.lineBytes s.cur = true)
    (hsrc : sourceOffset op s.bpp s.lineBytes s.cur = some src) :
    candidateRun s op = matchRun s.canvas s.bpp src s.cur ((s.size - s.cur) / s.bpp) := by
  simp [candidateRun, h, hsrc]

/-- A run that is not empty is that of an admitted candidate. -/
theorem admitted_of_candidateRun_pos {s : State} {op : CopyOp} (h : 0 < candidateRun s op) :
    admitted op s.bpp s.lineBytes s.cur = true :=
  Bool.of_not_eq_false fun hnot => h.ne' (candidateRun_of_not_admitted hnot)

/-- No run is longer than the image (10_state R21). -/
theorem candidateRun_le_pixels {s : State} (hp : 0 < s.bpp) (op : CopyOp) : candidateRun s op ≤ s.pixels :=
  Nat.le_of_mul_le_mul_right ((candidateRun_fits s op).trans (Nat.sub_le _ _)) hp

theorem State.pixels_lt (s : State) : s.pixels < 2 ^ 32 := by
  calc s.pixels ≤ s.cfgWidth.toNat * 2 ^ 16 := Nat.mul_le_mul_left _ s.cfgHeight.isLt.le
    _ < 2 ^ 16 * 2 ^ 16 := Nat.mul_lt_mul_of_pos_right s.cfgWidth.isLt (by decide)

/-! ## The selection (R225) -/

/-- One trial of the match finder: a strictly longer run replaces the best one so far. -/
def tryCandidate (run : CopyOp → Nat) (b : Option CopyOp × Nat) (op : CopyOp) : Option CopyOp × Nat :=
  if b.2 < run op then (some op, run op) else b

theorem best_eq_foldl (s : State) : best s = trialOrder.foldl (tryCandidate (candidateRun s)) (none, 0) := rfl

/-- `b` is the first of the longest runs of the candidates tried so far. -/
structure FirstLongest (run : CopyOp → Nat) (tried : List CopyOp) (b : Option CopyOp × Nat) : Prop where
  longest : ∀ op ∈ tried, run op ≤ b.2
  selected : ∀ op, b.1 = some op → op ∈ tried ∧ run op = b.2 ∧ 0 < b.2
  first : ∀ op, b.1 = some op → ∀ before ∈ tried, before.opcode.toNat < op.opcode.toNat → run before < b.2
  none : b.1 = none → b.2 = 0

/-- A trial of a candidate with a greater opcode number than those before it. -/
theorem FirstLongest.tryCandidate {run : CopyOp → Nat} {tried : List CopyOp} {b : Option CopyOp × Nat} {op : CopyOp}
    (h : FirstLongest run tried b) (hop : ∀ before ∈ tried, before.opcode.toNat < op.opcode.toNat) :
    FirstLongest run (tried ++ [op]) (tryCandidate run b op) := by
  have hmem {x : CopyOp} (hx : x ∈ tried ++ [op]) : x ∈ tried ∨ x = op := by simpa using hx
  unfold Machine.tryCandidate
  split
  case isTrue hlonger =>
    refine ⟨fun x hx => ?_, ?_, ?_, nofun⟩
    · rcases hmem hx with hx | rfl
      · exact (h.longest x hx).trans hlonger.le
      · exact le_rfl
    · rintro _ ⟨⟩
      exact ⟨by simp, rfl, Nat.zero_lt_of_lt hlonger⟩
    · rintro _ ⟨⟩ before hbefore hlt
      rcases hmem hbefore with hbefore | rfl
      · exact (h.longest before hbefore).trans_lt hlonger
      · exact absurd hlt (Nat.lt_irrefl _)
  case isFalse hnot =>
    refine ⟨fun x hx => ?_, fun x hx => ?_, fun x hx before hbefore hlt => ?_, h.none⟩
    · rcases hmem hx with hx | rfl
      · exact h.longest x hx
      · exact Nat.le_of_not_lt hnot
    · exact (h.selected x hx).imp_left (List.mem_append_left _)
    · rcases hmem hbefore with hbefore | rfl
      · exact h.first x hx before hbefore hlt
      · exact absurd (hop x (h.selected x hx).1) (Nat.not_lt_of_lt hlt)

/-- Trials in the order of the opcode numbers select the first of the longest runs. -/
theorem firstLongest_foldl (run : CopyOp → Nat) {ops : List CopyOp}
    (hsorted : ops.Pairwise fun a b => a.opcode.toNat < b.opcode.toNat) :
    FirstLongest run ops (ops.foldl (tryCandidate run) (none, 0)) := by
  induction ops using List.reverseRecOn with
  | nil => exact ⟨nofun, nofun, nofun, fun _ => rfl⟩
  | append_singleton ops op ih =>
    obtain ⟨hbefore, _, hlast⟩ := List.pairwise_append.1 hsorted
    rw [List.foldl_append]
    exact (ih hbefore).tryCandidate fun before hmem => hlast before hmem op (by simp)

/-- The candidates are tried in the order of their opcode numbers, and there are no others (R223, R225). -/
theorem trialOrder_sorted : trialOrder.Pairwise fun a b => a.opcode.toNat < b.opcode.toNat := by decide

theorem mem_trialOrder (op : CopyOp) : op ∈ trialOrder := by cases op <;> decide

theorem best_firstLongest (s : State) : FirstLongest (candidateRun s) trialOrder (best s) := by
  rw [best_eq_foldl]
  exact firstLongest_foldl (candidateRun s) trialOrder_sorted

/-! ## Copying a matched run (R230 c) -/

/-- Over a canvas that matches, a forward copy leaves every byte as it reads. -/
theorem copyForward_of_match {c : Memory} {src w k : Nat} (h : ∀ j < k, canvasAt c (src + j) = canvasAt c (w + j)) (a : Nat) :
    canvasAt (copyForward c src w k) a = canvasAt c a := by
  induction k generalizing src w with
  | zero => rfl
  | succ k ih =>
    have hwrite (b : Nat) : canvasAt (Memory.write c w (canvasAt c src)) b = canvasAt c b := by
      rw [canvasAt_write]
      split
      · subst b; exact h 0 (Nat.succ_pos k)
      · rfl
    rw [copyForward, copyForward_congr hwrite]
    refine ih fun j hj => ?_
    simpa only [Nat.add_assoc, Nat.add_comm 1] using h (j + 1) (Nat.succ_lt_succ hj)

/-- A matched run repeats the bytes between its source and its destination. -/
theorem canvasAt_period_of_match {c : Memory} {src w k j : Nat} (hsrc : src < w)
    (h : ∀ i < k, canvasAt c (src + i) = canvasAt c (w + i)) (hj : j < k) :
    canvasAt c (w + j) = canvasAt c (src + j % (w - src)) := by
  rw [← copyForward_of_match h (w + j), copyForward_period c hsrc hj]

end Sys2Proof.Machine
end

section
/-! PROOFS. The obligations about the match finder (44_encoder, section 2). -/

namespace Sys2Proof.Machine

/-- Settles O53: the run goes on while whole groups fit and match. -/
theorem candidateRunIsMaximal : Obligations.CandidateRunIsMaximal := by
  intro op s src hlegal hcur hadm hsrc
  have hp := State.bpp_pos_of_legal hlegal
  have hfits := candidateRun_fits s op
  refine ⟨by omega, candidateRun_le_pixels hp op, fun j hj => ?_, fun hmore => ?_⟩
  · rw [candidateRun_of_admitted hadm hsrc] at hj
    exact canvasAt_of_lt_matchRun hj
  · have hroom : candidateRun s op < (s.size - s.cur) / s.bpp := (Nat.le_div_iff_mul_le hp).2 (Nat.le_sub_of_add_le' hmore)
    rw [candidateRun_of_admitted hadm hsrc] at hroom ⊢
    have hdiff := mt sameGroup_iff.2 (Bool.eq_false_iff.1 (not_sameGroup_matchRun hroom))
    push Not at hdiff
    exact hdiff

/-- Settles O54, from what the trials select. -/
theorem bestIsFirstLongestCandidate : Obligations.BestIsFirstLongestCandidate := by
  intro s
  have h := best_firstLongest s
  refine ⟨fun op => h.longest op (mem_trialOrder op), fun op hop => ?_, h.none⟩
  obtain ⟨_, hrun, hpos⟩ := h.selected op hop
  exact ⟨hrun, hpos, fun before hlt => h.first op hop before (mem_trialOrder before) hlt⟩

/-- Settles O55: the copy sees only what the canvases share, and over `c` itself it changes no byte. -/
theorem matchedRunIsReproduced : Obligations.MatchedRunIsReproduced := by
  intro c c' src w k hsrc hbelow hmatch a ha
  rw [copyForward_congr_below hsrc hbelow a ha, copyForward_of_match hmatch]

/-- Settles O52, from the admission of each candidate. -/
theorem admissionIsAsTheTable : Obligations.AdmissionIsAsTheTable := by
  refine ⟨rfl, fun s hlegal hcur hprod => ?_, fun op s => candidateRun_of_not_admitted⟩
  have hp := State.bpp_pos_of_legal hlegal
  have hline := State.bpp_le_lineBytes (Nat.zero_lt_of_lt hcur)
  have hcup : admitted .cup s.bpp s.lineBytes s.cur = true ↔ s.lineBytes ≤ s.cur := decide_eq_true_iff
  have hcupr := admitted_cupr_iff (p := s.bpp) (l := s.lineBytes) (w := s.cur)
  have hcupl : admitted .cupl s.bpp s.lineBytes s.cur = true ↔ s.lineBytes + s.bpp < s.cur := decide_eq_true_iff
  refine ⟨⟨decide_eq_true hprod, if_pos (by omega)⟩, ⟨hcup, fun h => congrArg some (if_pos (hcup.1 h))⟩,
    ⟨hcupr.trans (and_congr_right' (State.bpp_lt_lineBytes_iff hp)), fun h => congrArg some (if_pos (hcupr.1 h).1)⟩,
    ⟨hcupl, fun h => congrArg some (if_pos (hcupl.1 h))⟩,
    ⟨decide_eq_true hprod, congrArg some (if_pos hprod)⟩, fun op src h hsrc => ?_⟩
  obtain ⟨src', hsrc', hlt⟩ := sourceOffset_of_admitted hp hline h
  cases hsrc'.symm.trans hsrc
  exact hlt

end Sys2Proof.Machine
end

section
/-! SUPPORT. The emissions of the encoder as encodings of operations (44_encoder R222, R226, R227), and the steps of an encode
pass that make them (R220, R228). -/

namespace Sys2Proof.Machine

/-! ## Emitting an operation -/

/-- The Bit Writer is given the bits of an operation. -/
def emit (i : Instr) (s : State) : State := (encode i).foldl writeBit s

theorem emit_wrote (i : Instr) (s : State) : Wrote (encode i).length s (emit i s) := foldl_writeBit_wrote _ _

theorem emit_sameSetup (i : Instr) (s : State) : SameSetup s (emit i s) := by
  obtain ⟨_, _, _, _, e⟩ := (emit_wrote i s).frame
  constructor <;> rw [e]

@[simp] theorem emit_cfgMode (i : Instr) (s : State) : (emit i s).cfgMode = s.cfgMode := (emit_sameSetup i s).cfgMode

@[simp] theorem emit_phase (i : Instr) (s : State) : (emit i s).phase = s.phase := (emit_sameSetup i s).phase

theorem foldl_writeBit_writtenBits (bits : List Bool) (s : State) :
    (bits.foldl writeBit s).writtenBits = s.writtenBits ++ bits := by
  induction bits generalizing s with
  | nil => exact (List.append_nil _).symm
  | cons b bits ih => rw [List.foldl_cons, ih, writeBit_writtenBits, List.append_assoc]; rfl

theorem emit_writtenBits (i : Instr) (s : State) : (emit i s).writtenBits = s.writtenBits ++ encode i :=
  foldl_writeBit_writtenBits _ _

/-- The Bit Writer neither reads nor writes VAL and REF. -/
theorem emit_with_val_ref (i : Instr) (s : State) (v r : Byte) :
    emit i { s with val := v, ref := r } = { emit i s with val := v, ref := r } := by
  unfold emit
  induction encode i generalizing s with
  | nil => rfl
  | cons b bits ih =>
    have hbit : writeBit { s with val := v, ref := r } b = { writeBit s b with val := v, ref := r } := by
      unfold writeBit
      dsimp only
      split <;> rfl
    rw [List.foldl_cons, List.foldl_cons, hbit, ih]

/-! ## What each emission writes -/

theorem emitCopy_eq_emit (op : CopyOp) (n : Nat) (s : State) :
    emitCopy op n s = { emit (.copy op (canonicalRun n)) s with cur := s.cur + n * s.bpp } := by
  rw [emitCopy, encodeVarint_eq_foldl, writeBits_eq_foldl, emit, encode_copy, List.foldl_append]
  rfl

/-- The operation that names a pixel byte, by the slot where it was found or by its value (R227). -/
def pixelInstr (found : Option Nat) (v : Byte) : Instr :=
  match found with
  | some slot => .dic (BitVec.ofNat 3 slot)
  | none => .lit v

theorem emitPixelBits_eq_emit (found : Option Nat) (v : Byte) (s : State) :
    emitPixelBits found v s = emit (pixelInstr found v) s := by
  cases found with
  | some slot =>
    rw [pixelInstr, emit, encode, field_ofNat, List.foldl_append]
    rfl
  | none =>
    rw [pixelInstr, emit, encode, List.foldl_append]
    rfl

theorem emitPixel_eq_emit {s : State} {r v : Byte} (hp : s.bpp ≤ s.cur) (h : s.cur < s.size)
    (hr : s.canvasByte (s.cur - s.bpp) = r) (hv : s.canvasByte s.cur = v) :
    emitPixel s = .ok { emit (pixelInstr (find s.dict r v) v) s with
      val := v, ref := r, dict := update s.dict r v, cur := s.cur + s.bpp } := by
  simp only [emitPixel, refByte_of_le hp ((Nat.sub_le _ _).trans_lt h), hr, hv, emitPixelBits_eq_emit, emit_with_val_ref]

theorem emitPrefixByte_eq_emit (s : State) :
    emitPrefixByte s = { emit (.raw (s.canvasByte s.cur)) s with cur := s.cur + 1 } := rfl

/-! ## The steps of an encode pass -/

theorem step_of_unfinished_encode {s : State} (hrun : s.running = true) (hunf : s.unfinished = true)
    (hmode : s.cfgMode = .encode) : step s = encodeStep (dropStart s) := by
  have hunf' : (dropStart s).unfinished = true := hunf
  rw [step, machineStep, if_pos hrun, passStep, if_pos hunf', dropStart_cfgMode, hmode]

theorem step_of_prefix_byte {s : State} (hmode : s.cfgMode = .encode) (hp : s.phase = .litPrefix)
    (h : s.cur < s.prefixBytes) :
    step s = .next (loopTest { emit (.raw (s.canvasByte s.cur)) (dropStart s) with cur := s.cur + 1 }) := by
  have hunf : s.unfinished = true := by simpa [State.unfinished, hp] using h
  rw [step_of_unfinished_encode (State.running_iff.2 (.inl hp)) hunf hmode, encodeStep, if_pos (by exact hp),
    emitPrefixByte_eq_emit]
  rfl

/-- A step of LOOP makes the emission that the match finder decides on. -/
theorem step_of_emitOperation {s t : State} (hmode : s.cfgMode = .encode) (hp : s.phase = .mainLoop) (h : s.cur < s.size)
    (hemit : emitOperation (dropStart s) = .ok t) : step s = .next (loopTest t) := by
  have hunf : s.unfinished = true := by simpa [State.unfinished, hp] using h
  have hp' : (dropStart s).phase ≠ .litPrefix := by rw [dropStart_phase, hp]; exact nofun
  rw [step_of_unfinished_encode (State.running_iff.2 (.inr hp)) hunf hmode, encodeStep, if_neg hp', hemit]

/-- The match finder looks at the canvas, the cursor and the configuration only. -/
theorem best_dropStart (s : State) : best (dropStart s) = best s := rfl

theorem step_of_best_copy {s : State} {op : CopyOp} {n : Nat} (hmode : s.cfgMode = .encode) (hp : s.phase = .mainLoop)
    (h : s.cur < s.size) (hbest : best s = (some op, n)) (hn : 2 ≤ n) :
    step s = .next (loopTest { emit (.copy op (canonicalRun n)) (dropStart s) with cur := s.cur + n * s.bpp }) := by
  refine step_of_emitOperation hmode hp h ?_
  rw [emitOperation, best_dropStart, hbest]
  dsimp only
  rw [if_pos hn, emitCopy_eq_emit]
  rfl

theorem step_of_short_best {s : State} {r v : Byte} (hmode : s.cfgMode = .encode) (hp : s.phase = .mainLoop)
    (hpix : s.bpp ≤ s.cur) (h : s.cur < s.size) (hbest : (best s).2 < 2) (hr : s.canvasByte (s.cur - s.bpp) = r)
    (hv : s.canvasByte s.cur = v) :
    step s = .next (loopTest { emit (pixelInstr (find s.dict r v) v) (dropStart s) with
      val := v, ref := r, dict := update s.dict r v, cur := s.cur + s.bpp }) := by
  refine step_of_emitOperation hmode hp h ?_
  rcases emitOperation_cases (dropStart s) with ⟨op, n, hb, hn, _⟩ | ⟨_, e⟩
  · rw [best_dropStart] at hb
    rw [hb] at hbest
    exact absurd hn (Nat.not_le_of_lt hbest)
  · rw [e]
    exact emitPixel_eq_emit (s := dropStart s) hpix h hr hv

/-! ## The loop tests of an encode pass (R220, R228) -/

theorem loopTest_of_encode_loop {s : State} (hmode : s.cfgMode = .encode) (hp : s.phase = .mainLoop) :
    loopTest s = if s.size ≤ s.cur then { flush s with phase := .done } else s := by
  split
  case isTrue hfull =>
    have hsame : { s with phase := .mainLoop } = s := by rw [← hp]
    rw [loopTest_of_canvas_full (.inr hp) hfull, hsame, finish_encode hmode]
  case isFalse hroom => exact loopTest_of_cur_lt_size hp (Nat.lt_of_not_le hroom)

theorem loopTest_of_encode_prefix {s : State} (hmode : s.cfgMode = .encode) (hp : s.phase = .litPrefix) :
    loopTest s = if s.cur < s.prefixBytes then s else if s.cur < s.size then { s with phase := .mainLoop }
      else { flush s with phase := .done } := by
  split_ifs with hprefix hsize
  · exact loopTest_of_continuing (fun _ => hprefix) fun hp' => by cases hp.symm.trans hp'
  · exact loopTest_of_prefix_complete hp (Nat.le_of_not_lt hprefix) hsize
  · rw [loopTest_of_canvas_full (.inl hp) (Nat.le_of_not_lt hsize), finish_encode (by exact hmode)]
    unfold flush
    split <;> rfl

end Sys2Proof.Machine
end

section
/-! PROOFS. The obligation about the emissions (44_encoder, sections 1 and 3). -/

namespace Sys2Proof.Machine

/-- Settles O51: each emission writes the bits of one operation, and a step makes the emission decided on and the loop
tests. -/
theorem encoderEmitsEncodings : Obligations.EncoderEmitsEncodings := by
  refine ⟨fun op n s _ => emitCopy_eq_emit op n s, fun slot v s _ => emitPixelBits_eq_emit (some slot) v s,
    fun v s => emitPixelBits_eq_emit none v s, fun s hmode hp hpix h => ⟨fun op n hbest hn => ?_, fun hbest => ?_⟩,
    fun s hmode hp h => ?_⟩
  · rw [step_of_best_copy hmode hp h hbest hn, loopTest_of_encode_loop]
    · rfl
    · simpa using hmode
    · simpa using hp
  · rw [step_of_short_best hmode hp hpix h hbest rfl rfl]
    generalize find s.dict (s.canvasByte (s.cur - s.bpp)) (s.canvasByte s.cur) = found
    rw [loopTest_of_encode_loop]
    · cases found <;> rfl
    · simpa using hmode
    · simpa using hp
  · rw [step_of_prefix_byte hmode hp h, loopTest_of_encode_prefix]
    · rfl
    · simpa using hmode
    · simpa using hp

end Sys2Proof.Machine
end

section
/-! SUPPORT. What one step of an encode pass does (44_encoder R220 to R228): the operation it emits, where the cursor goes, how
many bits it takes, and that the pass goes on or ends. -/

namespace Sys2Proof.Machine

/-! ## A running encode pass -/

/-- A running encode pass at a place of its loops: what the encoder needs of `State.Inv`. -/
structure State.Encoding (s : State) : Prop where
  running : s.running = true
  encoding : s.cfgMode = .encode
  config : s.configLegal = true
  cursor : s.cursorOk

theorem State.Inv.toEncoding {s : State} (h : s.Inv) (hrun : s.running = true) (hmode : s.cfgMode = .encode) :
    s.Encoding := ⟨hrun, hmode, h.config hrun, h.cursor⟩

theorem State.Encoding.bpp_pos {s : State} (h : s.Encoding) : 0 < s.bpp := State.bpp_pos_of_legal h.config

/-- In LOOP the cursor is a whole number of pixel-groups, two at least, and there is a group left (10_state R34). -/
theorem State.Encoding.group_of_loop {s : State} (h : s.Encoding) (hp : s.phase = .mainLoop) :
    ∃ g, s.cur = (g + 2) * s.bpp ∧ g + 2 < s.pixels := by
  obtain ⟨hlt, hprod, hgrid⟩ := h.cursor.2 hp
  obtain ⟨a, ha⟩ := Nat.dvd_of_mod_eq_zero hgrid
  rw [Nat.mul_comm] at ha
  obtain ⟨g, rfl⟩ := Nat.exists_eq_add_of_le' (Nat.le_of_mul_le_mul_right (ha ▸ hprod) h.bpp_pos)
  exact ⟨g, ha, Nat.lt_of_mul_lt_mul_right (ha ▸ hlt : (g + 2) * s.bpp < s.pixels * s.bpp)⟩

/-! ## The operation of a step -/

/-- The operation that a step of an encode pass emits, and CUR and the dictionary after it: a raw byte (R222), a run that
the match finder found (R226), or a pixel named by its value or by its slot (R227). -/
inductive Emission (e : State) : Instr → Nat → Dict → Prop where
  | raw (hp : e.phase = .litPrefix) : Emission e (.raw (e.canvasByte e.cur)) (e.cur + 1) e.dict
  | copy {op : CopyOp} {n src : Nat} (hp : e.phase = .mainLoop)
      (hsrc : sourceOffset op e.bpp e.lineBytes e.cur = some src) (hbehind : src < e.cur)
      (hmatch : ∀ j < n * e.bpp, e.canvasByte (src + j) = e.canvasByte (e.cur + j))
      (hpos : 1 ≤ n) (hfit : e.cur + n * e.bpp ≤ e.size) :
      Emission e (.copy op (canonicalRun n)) (e.cur + n * e.bpp) e.dict
  | pixel {i : Instr} {r v : Byte} (hp : e.phase = .mainLoop) (hr : e.canvasByte (e.cur - e.bpp) = r)
      (hv : e.canvasByte e.cur = v) (hi : i = .lit v ∨ ∃ k, i = .dic k ∧ lookup e.dict r k = v)
      (hfit : e.cur + e.bpp ≤ e.size) : Emission e i (e.cur + e.bpp) (update e.dict r v)

/-- `u` is `e` after the bits of `i` are written, CUR being `c` and the dictionary `d`; VAL and REF may have changed, and a
START is dropped. -/
structure Emitted (e : State) (i : Instr) (c : Nat) (d : Dict) (u : State) : Prop where
  setup : SameSetup e u
  canvas : u.canvas = e.canvas
  noStart : u.ctrlStart = false
  cur : u.cur = c
  dict : u.dict = d
  bits : u.writtenBits = e.writtenBits ++ encode i

theorem emitted_pixel (e : State) (i : Instr) (c : Nat) (d : Dict) (v r : Byte) :
    Emitted e i c d { emit i (dropStart e) with val := v, ref := r, dict := d, cur := c } := by
  have hbits := emit_writtenBits i (dropStart e)
  obtain ⟨_, _, _, _, he⟩ := (emit_wrote i (dropStart e)).frame
  refine ⟨?_, ?_, ?_, rfl, rfl, hbits⟩
  · constructor <;> rw [he] <;> rfl
  · rw [he]; rfl
  · rw [he]; rfl

/-- The emissions that record neither VAL nor REF and leave the dictionary alone. -/
theorem emitted_cursor (e : State) (i : Instr) (c : Nat) : Emitted e i c e.dict { emit i (dropStart e) with cur := c } := by
  rw [← show (emit i (dropStart e)).dict = e.dict from (emit_wrote i (dropStart e)).dict]
  exact emitted_pixel e i c _ (emit i (dropStart e)).val (emit i (dropStart e)).ref

/-- A slot that `find` gives holds the byte (42_dictionary_cache R164). -/
theorem lookup_of_find {d : Dict} {r v : Byte} {slot : Nat} (h : find d r v = some slot) :
    lookup d r (BitVec.ofNat 3 slot) = v := by
  obtain ⟨hlt, hv, _⟩ := position_eq_some_iff.1 h
  have hslot : (BitVec.ofNat 3 slot).toNat = slot := by rw [BitVec.toNat_ofNat]; omega
  simpa only [lookup, hslot] using hv

/-- What a step of an encode pass does: it emits an operation and makes the loop tests (R220). -/
theorem State.Encoding.step_emits {e : State} (h : e.Encoding) :
    ∃ i c d u, Emission e i c d ∧ Emitted e i c d u ∧ step e = .next (loopTest u) := by
  rcases State.running_iff.1 h.running with hp | hp
  · exact ⟨_, _, _, _, .raw hp, emitted_cursor e _ _, step_of_prefix_byte h.encoding hp (h.cursor.1 hp)⟩
  obtain ⟨hlt, hprod, _⟩ := h.cursor.2 hp
  rcases Nat.lt_or_ge (best e).2 2 with hshort | hlong
  · refine ⟨_, _, _, _, .pixel hp rfl rfl ?_ ?_, emitted_pixel e _ _ _ _ _,
      step_of_short_best h.encoding hp (by omega) hlt hshort rfl rfl⟩
    · cases hfind : find e.dict (e.canvasByte (e.cur - e.bpp)) (e.canvasByte e.cur) with
      | none => exact .inl rfl
      | some slot => exact .inr ⟨_, rfl, lookup_of_find hfind⟩
    · obtain ⟨g, hcur, hroom⟩ := h.group_of_loop hp
      rw [hcur, ← Nat.succ_mul]
      exact Nat.mul_le_mul_right _ hroom
  · have hfirst := best_firstLongest e
    obtain ⟨op, hop⟩ : ∃ op, (best e).1 = some op := Option.ne_none_iff_exists'.1 fun hnone => by
      have := hfirst.none hnone
      omega
    obtain ⟨_, hrun, hpos⟩ := hfirst.selected op hop
    have hadm := admitted_of_candidateRun_pos (hrun ▸ hpos)
    obtain ⟨src, hsrc, hbehind⟩ := sourceOffset_of_admitted h.bpp_pos (State.bpp_le_lineBytes (Nat.zero_lt_of_lt hlt)) hadm
    have hfit := candidateRun_fits e op
    refine ⟨_, _, _, _, .copy (op := op) (n := (best e).2) hp hsrc hbehind ?_ hpos (by rw [← hrun]; omega),
      emitted_cursor e _ _, step_of_best_copy h.encoding hp hlt (Prod.ext hop rfl) hlong⟩
    rw [← hrun, candidateRun_of_admitted hadm hsrc]
    exact fun j hj => canvasAt_of_lt_matchRun hj

/-! ## The bits of an emission (R234) -/

/-- A copy of the canonical run takes at most ten bits for each pixel-group. -/
theorem length_encode_copy_canonicalRun (op : CopyOp) {n : Nat} (hn : 1 ≤ n) :
    (encode (.copy op (canonicalRun n))).length ≤ 10 * n := by
  have hop : op.bits.length ≤ 4 := by cases op <;> decide
  rw [encode_copy, List.length_append]
  rcases canonicalRun_cases n with ⟨_, e⟩ | ⟨_, e⟩ | ⟨_, e⟩ | ⟨_, e⟩ | ⟨_, e⟩ <;> rw [e] <;> simp <;> omega

theorem Emission.wellFormed {e : State} {i : Instr} {c : Nat} {d : Dict} (h : Emission e i c d) : WellFormed i := by
  cases h with
  | raw => rfl
  | copy => rw [WellFormed, Instr.wellFormed_copy]; exact canonicalRun_wellFormed _
  | pixel _ _ _ hi => rcases hi with rfl | ⟨_, rfl, _⟩ <;> rfl

/-- The part of the stream in which the operation stands is that of the phase (30_encoding R106). -/
theorem Emission.part {e : State} {i : Instr} {c : Nat} {d : Dict} (h : Emission e i c d) : i.part = e.part := by
  cases h with
  | raw hp => rw [State.part, if_pos hp]; rfl
  | copy hp => rw [State.part, if_neg (by rw [hp]; exact nofun), Instr.part_copy]
  | pixel hp _ _ hi => rw [State.part, if_neg (by rw [hp]; exact nofun)]; rcases hi with rfl | ⟨_, rfl, _⟩ <;> rfl

/-! ## Where an emission takes the cursor -/

/-- A raw byte takes the cursor one byte on; every other operation takes it a number of whole groups on, and takes at most
ten bits for each (R234). -/
theorem Emission.cursor_cases {e : State} {i : Instr} {c : Nat} {d : Dict} (h : Emission e i c d) :
    (e.phase = .litPrefix ∧ c = e.cur + 1 ∧ (encode i).length = 8) ∨
    (e.phase = .mainLoop ∧ ∃ n, 1 ≤ n ∧ c = e.cur + n * e.bpp ∧ c ≤ e.size ∧ (encode i).length ≤ 10 * n) := by
  cases h with
  | raw hp => exact .inl ⟨hp, rfl, length_field _⟩
  | copy hp _ _ _ hpos hfit => exact .inr ⟨hp, _, hpos, rfl, hfit, length_encode_copy_canonicalRun _ hpos⟩
  | pixel hp _ _ hi hfit =>
    refine .inr ⟨hp, 1, le_rfl, by rw [Nat.one_mul], hfit, ?_⟩
    rcases hi with rfl | ⟨_, rfl, _⟩ <;> simp [encode]

/-- The steps that an encode pass has left at most: one for each raw byte, then one for each pixel-group (R229). -/
def State.stepsLeft (s : State) : Nat := (s.prefixBytes - s.cur) + (s.size - s.cur) / s.bpp

/-- The bits that an encode pass has written at most: eight for each raw byte, ten for each group after them (R234). -/
def State.bitBudget (s : State) : Nat := 8 * min s.cur s.prefixBytes + 10 * ((s.cur - s.prefixBytes) / s.bpp)

/-- Both counts at a place of LOOP, or at its end, in pixel-groups. -/
theorem State.counts_of_group {s : State} {g : Nat} (hp : 0 < s.bpp) (hcur : s.cur = (g + 2) * s.bpp)
    (hg : g + 2 ≤ s.pixels) :
    s.prefixBytes = 2 * s.bpp ∧ s.stepsLeft = s.pixels - (g + 2) ∧ s.bitBudget = 8 * (2 * s.bpp) + 10 * g := by
  have hle : 2 * s.bpp ≤ s.cur := hcur ▸ Nat.mul_le_mul_right _ (Nat.le_add_left 2 g)
  have hsize : s.cur ≤ s.size := hcur ▸ Nat.mul_le_mul_right _ hg
  have hprefix : s.prefixBytes = 2 * s.bpp := Nat.min_eq_left (hle.trans hsize)
  have hleft : (s.size - s.cur) / s.bpp = s.pixels - (g + 2) := by
    rw [show s.size = s.pixels * s.bpp from rfl, hcur, ← Nat.sub_mul, Nat.mul_div_cancel _ hp]
  have hpassed : (s.cur - 2 * s.bpp) / s.bpp = g := by
    rw [hcur, ← Nat.sub_mul, Nat.mul_div_cancel _ hp, Nat.add_sub_cancel]
  refine ⟨hprefix, ?_, ?_⟩
  · rw [State.stepsLeft, hleft, hprefix]
    omega
  · rw [State.bitBudget, hprefix, hpassed, Nat.min_eq_right hle]

/-- An emission takes the cursor to a place of its loop or to its end, and keeps to the counts. -/
theorem Emission.advances {e u : State} {i : Instr} {c : Nat} {d : Dict} (hi : Emission e i c d) (h : e.Encoding)
    (hcur : u.cur = c) (hu : SameSetup e u) :
    u.cursorReached ∧ u.stepsLeft < e.stepsLeft ∧ e.bitBudget + (encode i).length ≤ u.bitBudget := by
  have hp := h.bpp_pos
  have hbpp : u.bpp = e.bpp := State.bpp_congr hu.cfgBpp
  have hsize : u.size = e.size := State.size_congr hu.cfgWidth hu.cfgHeight hu.cfgBpp
  have hprefix : u.prefixBytes = e.prefixBytes := State.prefixBytes_congr hu.cfgWidth hu.cfgHeight hu.cfgBpp
  rcases hi.cursor_cases with ⟨hphase, rfl, hlen⟩ | ⟨hphase, n, hn, rfl, hfit, hlen⟩
  · have hlt := h.cursor.1 hphase
    have hle : (e.size - (e.cur + 1)) / e.bpp ≤ (e.size - e.cur) / e.bpp := Nat.div_le_div_right (by omega)
    simp only [State.cursorReached, State.stepsLeft, State.bitBudget, hu.phase, hphase, hbpp, hsize, hprefix, hcur, hlen]
    refine ⟨⟨fun _ => hlt, nofun⟩, by omega, ?_⟩
    rw [Nat.sub_eq_zero_of_le hlt, Nat.sub_eq_zero_of_le hlt.le]
    omega
  · obtain ⟨g, hg, hroom⟩ := h.group_of_loop hphase
    have hgroup : u.cur = (g + n + 2) * u.bpp := by rw [hcur, hg, hbpp, ← Nat.add_mul, Nat.add_right_comm]
    have hpixels : u.pixels = e.pixels := by simp only [State.pixels, hu.cfgWidth, hu.cfgHeight]
    have hfull : g + n + 2 ≤ u.pixels := by
      rw [← hcur, hgroup, ← hsize] at hfit
      exact Nat.le_of_mul_le_mul_right hfit (hbpp ▸ hp)
    obtain ⟨_, hsteps, hbits⟩ := State.counts_of_group hp hg hroom.le
    obtain ⟨_, hsteps', hbits'⟩ := State.counts_of_group (hbpp ▸ hp) hgroup hfull
    refine ⟨⟨fun hp' => ?_, fun _ => ⟨?_, ?_, ?_⟩⟩, by omega, by rw [hbits, hbits', hbpp]; omega⟩
    · cases (hu.phase.trans hphase).symm.trans hp'
    · rw [hcur, hsize]; exact hfit
    · rw [hgroup]; exact Nat.mul_le_mul_right _ (Nat.le_add_left _ _)
    · rw [hgroup]; exact Nat.mul_mod_left _ _

/-! ## The end of a step -/

theorem loopTest_cursorOk {s : State} (hcur : s.cursorReached) : (loopTest s).cursorOk := by
  unfold State.cursorOk
  rcases loopTest_cases s with ⟨e, hprefix, hloop⟩ | ⟨e, hp, hge, hlt⟩ | ⟨e, _, _⟩
  · rw [e]
    exact ⟨hprefix, fun hp => ⟨hloop hp, (hcur.2 hp).2⟩⟩
  · -- PREFIX ends below SIZE, so the cursor stands at 2P
    have hle := hcur.1 hp
    rw [State.prefixBytes] at hle hge
    have hcur' : s.cur = 2 * s.bpp := by omega
    rw [e]
    exact ⟨nofun, fun _ => ⟨hlt, hcur'.ge, hcur' ▸ Nat.mul_mod_left 2 s.bpp⟩⟩
  · have hphase : (loopTest s).phase = .done := by rw [e]; simp
    exact ⟨fun hp => (by cases hphase.symm.trans hp), fun hp => by cases hphase.symm.trans hp⟩

/-- The loop tests of an encode pass go on with the pass, or flush and end it (R228). -/
theorem loopTest_of_encode {s : State} (hrun : s.running = true) (hmode : s.cfgMode = .encode) :
    ((loopTest s).running = true ∧ loopTest s = { s with phase := (loopTest s).phase }) ∨
    (s.size ≤ s.cur ∧ loopTest s = { flush s with phase := .done }) := by
  rcases State.running_iff.1 hrun with hp | hp
  · rw [loopTest_of_encode_prefix hmode hp]
    split_ifs with hprefix hsize
    · exact .inl ⟨hrun, rfl⟩
    · exact .inl ⟨rfl, rfl⟩
    · exact .inr ⟨Nat.le_of_not_lt hsize, rfl⟩
  · rw [loopTest_of_encode_loop hmode hp]
    split
    · exact .inr ⟨by assumption, rfl⟩
    · exact .inl ⟨hrun, rfl⟩

end Sys2Proof.Machine
end

section
/-! SUPPORT. A whole encode pass (44_encoder R221, R229, R234): it never stops, and it keeps to its budget of bits. -/

namespace Sys2Proof.Machine

/-- What holds and lets the machine step on to where it holds again, holds after any number of steps. -/
theorem steps_of_progress {P : State → Prop} (hP : ∀ s, P s → ∃ t, step s = .next t ∧ P t) (k : Nat) {s : State}
    (h : P s) : ∃ t, steps k s = .next t ∧ P t := by
  induction k generalizing s with
  | zero => exact ⟨s, rfl, h⟩
  | succ k ih =>
    obtain ⟨t, ht, hPt⟩ := hP s h
    rw [steps_succ ht]
    exact ih hPt

/-! ## The end of an emission's step -/

theorem Emitted.bitsOut {e u : State} {i : Instr} {c : Nat} {d : Dict} (h : Emitted e i c d u) :
    u.bitsOut = e.bitsOut + (encode i).length := by
  rw [← length_writtenBits, h.bits, List.length_append, length_writtenBits]

theorem Emitted.running {e u : State} {i : Instr} {c : Nat} {d : Dict} (h : Emitted e i c d u) (he : e.Encoding) :
    u.running = true := by rw [State.running, h.setup.phase]; exact he.running

theorem State.configLegal_congr {s t : State} (h : t.cfgBpp = s.cfgBpp) : t.configLegal = s.configLegal := by
  simp only [State.configLegal, h]

/-- After the loop tests the pass goes on, or it has filled the canvas, flushed and ended (R228). -/
theorem Emission.ends {e u : State} {i : Instr} {c : Nat} {d : Dict} (hi : Emission e i c d) (hu : Emitted e i c d u)
    (h : e.Encoding) :
    ((loopTest u).Encoding ∧ loopTest u = { u with phase := (loopTest u).phase }) ∨
    (u.cur = u.size ∧ loopTest u = { flush u with phase := .done }) := by
  obtain ⟨hcur, _⟩ := hi.advances h hu.cur hu.setup
  have hmode := hu.setup.cfgMode.trans h.encoding
  refine (loopTest_of_encode (hu.running h) hmode).imp
    (fun ⟨hrun, hend⟩ => ⟨⟨hrun, ?_, ?_, loopTest_cursorOk hcur⟩, hend⟩)
    fun ⟨hfull, hend⟩ => ⟨Nat.le_antisymm ?_ hfull, hend⟩
  · rw [loopTest_cfgMode, hmode]
  · rw [State.configLegal_congr (loopTest_cfgBpp u), State.configLegal_congr hu.setup.cfgBpp, h.config]
  · rcases State.running_iff.1 (hu.running h) with hp | hp
    · exact (hcur.1 hp).trans u.prefixBytes_le_size
    · exact (hcur.2 hp).1

/-! ## The pass never stops (R229) -/

/-- An encode pass that is running, or has ended normally with no START pending. -/
def State.EncodingOrDone (s : State) : Prop := s.Encoding ∨ s.phase = .done ∧ s.ctrlStart = false

theorem step_of_done {s : State} (hdone : s.phase = .done) (hstart : s.ctrlStart = false) : step s = .next s := by
  rw [step_of_waiting (by simp [State.running, hdone]), waitStep_of_no_start hstart, dropStart, ← hstart]

theorem State.EncodingOrDone.progress {s : State} (h : s.EncodingOrDone) : ∃ t, step s = .next t ∧ t.EncodingOrDone := by
  rcases h with h | ⟨hdone, hstart⟩
  · obtain ⟨i, c, d, u, hi, hu, hstep⟩ := h.step_emits
    refine ⟨_, hstep, (hi.ends hu h).imp And.left fun ⟨_, e⟩ => ?_⟩
    rw [loopTest_ctrlStart, e]
    exact ⟨rfl, hu.noStart⟩
  · exact ⟨s, step_of_done hdone hstart, .inr ⟨hdone, hstart⟩⟩

/-! ## The budget of bits (R234) -/

/-- The bits that a whole encode pass writes at most. -/
def State.bitLimit (s : State) : Nat := 8 * s.prefixBytes + 10 * ((s.size - s.prefixBytes) / s.bpp)

theorem State.bitBudget_of_full {s : State} (h : s.cur = s.size) : s.bitBudget = s.bitLimit := by
  rw [State.bitBudget, h, Nat.min_eq_right s.prefixBytes_le_size, State.bitLimit]

/-- The limit depends on the configuration alone. -/
theorem State.bitLimit_congr {s t : State} (h : SameSetup s t) : t.bitLimit = s.bitLimit := by
  simp only [State.bitLimit, State.size_congr h.cfgWidth h.cfgHeight h.cfgBpp, State.bpp_congr h.cfgBpp,
    State.prefixBytes_congr h.cfgWidth h.cfgHeight h.cfgBpp]

/-- An encode pass within its budget: running, or ended normally with no START pending and at most `limit` bits written. -/
inductive State.WithinBudget (limit : Nat) (s : State) : Prop where
  | running (h : s.Encoding) (hlimit : s.bitLimit = limit) (hbits : s.bitsOut ≤ s.bitBudget)
  | ended (hdone : s.phase = .done) (hstart : s.ctrlStart = false) (holen : s.olen ≤ (limit + 7) / 8)

theorem State.WithinBudget.progress {limit : Nat} {s : State} (h : s.WithinBudget limit) :
    ∃ t, step s = .next t ∧ t.WithinBudget limit := by
  cases h with
  | ended hdone hstart holen => exact ⟨s, step_of_done hdone hstart, .ended hdone hstart holen⟩
  | running h hlimit hbits =>
    obtain ⟨i, c, d, u, hi, hu, hstep⟩ := h.step_emits
    obtain ⟨_, _, hbudget⟩ := hi.advances h hu.cur hu.setup
    have hu' : u.bitsOut ≤ u.bitBudget := by rw [hu.bitsOut]; omega
    have hlimit' : u.bitLimit = limit := (State.bitLimit_congr hu.setup).trans hlimit
    refine ⟨_, hstep, ?_⟩
    rcases hi.ends hu h with ⟨hgoes, e⟩ | ⟨hfull, e⟩
    · exact .running hgoes (by rw [e]; exact hlimit') (by rw [e]; exact hu')
    · refine .ended (by rw [e]) ((loopTest_ctrlStart u).trans hu.noStart) ?_
      rw [State.bitBudget_of_full hfull, hlimit'] at hu'
      rw [e]
      exact (flush_olen u).trans_le (Nat.div_le_div_right (Nat.add_le_add_right hu' 7))

/-! ## START of an encode pass (70_reset R291) -/

theorem State.starting.step_eq {s : State} (h : s.starting) : step s = .next (startPass (dropStart s)) := by
  obtain ⟨hidle, hstart, hlegal⟩ := h
  rw [step_of_waiting hidle, waitStep, if_pos ⟨hstart, hlegal⟩]

theorem State.starting.step_encode {s : State} (h : s.starting) (hmode : s.cfgMode = .encode) :
    step s = .next (startEncode (dropStart s)) := by
  rw [h.step_eq, startPass, dropStart_cfgMode, hmode]

/-- The pass begins in PREFIX, unless the canvas is empty and it is over at once (R221). -/
theorem startEncode_begins {s : State} (hmode : s.cfgMode = .encode) (hlegal : s.configLegal = true) :
    (startEncode s).Encoding ∨ s.size = 0 ∧ (startEncode s).phase = .done := by
  by_cases hsize : s.size = 0
  · exact .inr ⟨hsize, if_pos hsize⟩
  · have hphase : (startEncode s).phase = .litPrefix := if_neg hsize
    exact .inl ⟨State.running_iff.2 (.inl hphase), hmode, hlegal, fun _ => State.prefixBytes_pos hsize,
      fun hp => by cases hphase.symm.trans hp⟩

theorem startEncode_withinBudget {s : State} (hmode : s.cfgMode = .encode) (hlegal : s.configLegal = true) :
    (startEncode (dropStart s)).WithinBudget s.bitLimit := by
  rcases startEncode_begins (s := dropStart s) hmode hlegal with h | ⟨_, hdone⟩
  · exact .running h rfl (Nat.zero_le _)
  · exact .ended hdone rfl (Nat.zero_le _)

/-- The limit in the numbers of R234, for a canvas of two pixel-groups at least. -/
theorem State.bitLimit_eq {s : State} (hp : 0 < s.bpp) (h : 2 * s.bpp ≤ s.size) :
    s.bitLimit = 8 * s.prefixBytes + 10 * (s.pixels - s.prefixBytes / s.bpp) := by
  have hprefix : s.prefixBytes = 2 * s.bpp := Nat.min_eq_left h
  rw [State.bitLimit, hprefix, Nat.mul_div_cancel _ hp, show s.size = s.pixels * s.bpp from rfl, ← Nat.sub_mul,
    Nat.mul_div_cancel _ hp]

end Sys2Proof.Machine
end

section
/-! PROOFS. The obligation about the size of the output (44_encoder, section 4). -/

namespace Sys2Proof.Machine

/-- Settles O59: from START on every step keeps the pass within its budget, and the flush rounds the bits up to bytes. -/
theorem encoderOutputIsBounded : Obligations.EncoderOutputIsBounded := by
  intro e t k hstarting hmode hk hrun hdone
  obtain ⟨k, rfl⟩ := Nat.exists_eq_add_of_le' hk
  obtain ⟨_, _, hlegal⟩ := id hstarting
  have hp := State.bpp_pos_of_legal hlegal
  rw [steps_succ (hstarting.step_encode hmode)] at hrun
  obtain ⟨t', hrun', hbudget⟩ :=
    steps_of_progress (fun _ => State.WithinBudget.progress) k (startEncode_withinBudget hmode hlegal)
  cases hrun'.symm.trans hrun
  have holen : t.olen ≤ (e.bitLimit + 7) / 8 := by
    cases hbudget with
    | running h =>
      have hrunning := h.running
      simp [State.running, hdone] at hrunning
    | ended _ _ holen => exact holen
  refine ⟨fun hsize => State.bitLimit_eq hp hsize ▸ holen, fun hbpp hpixels => ?_⟩
  have hone : e.bpp = 1 := by rw [State.bpp, hbpp]; rfl
  have hsize : e.size = e.pixels := by rw [State.size, hone, Nat.mul_one]; rfl
  have hprefix : e.prefixBytes = 2 := by rw [State.prefixBytes, hone, hsize]; omega
  rwa [State.bitLimit, hprefix, hsize, hone, Nat.div_one] at holen

end Sys2Proof.Machine
end

section
/-! SUPPORT. The decoder on the operation that a step of an encode pass emitted (44_encoder R230, R232): it goes where the
encoder went. -/

namespace Sys2Proof

/-- The opcode and the run count of a copy (30_encoding R97). -/
def Instr.operands : Instr → Option (CopyOp × Run)
  | .raw _ | .lit _ | .dic _ => none
  | .cprevV2 a => some (.cprev, .v2 a)
  | .cprevV6 b => some (.cprev, .v6 b)
  | .cprevV14 c => some (.cprev, .v14 c)
  | .cprevV30 d => some (.cprev, .v30 d)
  | .cprevV62 h l => some (.cprev, .v62 h l)
  | .cupV2 a => some (.cup, .v2 a)
  | .cupV6 b => some (.cup, .v6 b)
  | .cupV14 c => some (.cup, .v14 c)
  | .cupV30 d => some (.cup, .v30 d)
  | .cupV62 h l => some (.cup, .v62 h l)
  | .cuprV2 a => some (.cupr, .v2 a)
  | .cuprV6 b => some (.cupr, .v6 b)
  | .cuprV14 c => some (.cupr, .v14 c)
  | .cuprV30 d => some (.cupr, .v30 d)
  | .cuprV62 h l => some (.cupr, .v62 h l)
  | .cuplV2 a => some (.cupl, .v2 a)
  | .cuplV6 b => some (.cupl, .v6 b)
  | .cuplV14 c => some (.cupl, .v14 c)
  | .cuplV30 d => some (.cupl, .v30 d)
  | .cuplV62 h l => some (.cupl, .v62 h l)
  | .cprev2V2 a => some (.cprev2, .v2 a)
  | .cprev2V6 b => some (.cprev2, .v6 b)
  | .cprev2V14 c => some (.cprev2, .v14 c)
  | .cprev2V30 d => some (.cprev2, .v30 d)
  | .cprev2V62 h l => some (.cprev2, .v62 h l)

@[simp] theorem Instr.operands_copy (op : CopyOp) (r : Run) : (Instr.copy op r).operands = some (op, r) := by
  cases op <;> cases r <;> rfl

/-- A copy has one opcode and one run count. -/
theorem Instr.copy_inj {op op' : CopyOp} {r r' : Run} (h : Instr.copy op r = .copy op' r') : op = op' ∧ r = r' := by
  simpa using congrArg Instr.operands h

end Sys2Proof

namespace Sys2Proof.Machine

/-! ## The same place in both passes -/

namespace Mirrors

variable {e d : State}

theorem bpp_eq (h : Mirrors e d) : d.bpp = e.bpp := State.bpp_congr h.bpp

theorem size_eq (h : Mirrors e d) : d.size = e.size := State.size_congr h.width h.height h.bpp

theorem lineBytes_eq (h : Mirrors e d) : d.lineBytes = e.lineBytes := State.lineBytes_congr h.width h.bpp

theorem prefixBytes_eq (h : Mirrors e d) : d.prefixBytes = e.prefixBytes :=
  State.prefixBytes_congr h.width h.height h.bpp

theorem running (h : Mirrors e d) (he : e.Encoding) : d.running = true := by
  rw [State.running, h.phase]; exact he.running

theorem unfinished (h : Mirrors e d) (he : e.Encoding) : d.unfinished = true := by
  rcases State.running_iff.1 he.running with hp | hp
  · simpa [State.unfinished, h.phase, hp, h.cur, h.prefixBytes_eq] using he.cursor.1 hp
  · simpa [State.unfinished, h.phase, hp, h.cur, h.size_eq] using (he.cursor.2 hp).1

theorem part (h : Mirrors e d) : d.part = e.part := by rw [State.part, h.phase, State.part]

end Mirrors

/-! ## Executing the emitted operation -/

/-- What the Bit Reader has before it depends on its registers and on STREAM alone. -/
theorem State.Before.congr {s t : State} {bits : List Bool} (h : s.Before bits) (hstream : t.stream = s.stream)
    (hslen : t.streamLen = s.streamLen) (hspos : t.spos = s.spos) (hcnt : t.bitCnt = s.bitCnt) (hbuf : t.bitBuf = s.bitBuf) :
    t.Before bits := by
  have hbyte (a : Nat) : t.streamByte a = s.streamByte a := by rw [State.streamByte, State.streamByte, hstream]
  have hpos : t.bitPos = s.bitPos := by rw [State.bitPos, State.bitPos, hspos, hcnt]
  refine ⟨?_, (remainingBits_congr hstream hslen hpos).trans h.bits⟩
  unfold State.readerOk
  rw [hslen, hspos, hcnt, hbuf, hbyte]
  exact h.reader

/-- `v` is the decoder state `d` after the work of an operation: CUR is `c`, the dictionary is `dict`, and the Bit Reader stands
where it stood. -/
structure Executed (d : State) (c : Nat) (dict : Dict) (v : State) : Prop where
  setup : SameSetup d v
  before : ∀ bits, d.Before bits → v.Before bits
  cur : v.cur = c
  dict : v.dict = dict

/-- The canvas of the decoder after the operation `i` that the encoder emitted at `e` and that takes the cursor to `c`: byte 0
of every group passed is reproduced (R230), and so are a raw byte and every byte of a run whose source byte is (R232). -/
structure Reproduced (e d : State) (i : Instr) (c : Nat) (v : State) : Prop where
  below : ∀ a < e.cur, v.canvasByte a = d.canvasByte a
  groups : ∀ a, e.cur ≤ a → a < c → a % e.bpp = 0 → v.canvasByte a = e.canvasByte a
  raw : ∀ x, i = .raw x → v.canvasByte e.cur = e.canvasByte e.cur
  copied : ∀ op r src, i = .copy op r → sourceOffset op e.bpp e.lineBytes e.cur = some src →
    ∀ j < (runLen r).toNat * e.bpp,
      d.canvasByte (src + j % (e.cur - src)) = e.canvasByte (src + j % (e.cur - src)) →
      v.canvasByte (e.cur + j) = e.canvasByte (e.cur + j)

/-- An offset on the grid less than a group past a place of the grid is that place. -/
theorem eq_of_grid {a w p : Nat} (hw : w % p = 0) (ha : a % p = 0) (hle : w ≤ a) (hlt : a < w + p) : a = w := by
  obtain ⟨j, rfl⟩ := Nat.exists_eq_add_of_le hle
  rw [Nat.add_mod, hw, Nat.zero_add, Nat.mod_mod, Nat.mod_eq_of_lt (by omega)] at ha
  rw [ha, Nat.add_zero]

/-- An operation that writes the encoder's byte at the cursor, and passes byte 0 of no other group. -/
theorem reproduced_of_write {e d v : State} {i : Instr} {c : Nat} (hcur : d.cur = e.cur)
    (hgroup : ∀ a, e.cur ≤ a → a < c → a % e.bpp = 0 → a = e.cur) (hi : i.operands = none)
    (hcanvas : v.canvas = Memory.write d.canvas d.cur (e.canvasByte e.cur)) : Reproduced e d i c v := by
  have hbyte (a : Nat) : v.canvasByte a = if a = e.cur then e.canvasByte e.cur else d.canvasByte a := by
    rw [State.canvasByte, hcanvas, canvasAt_write, hcur]; rfl
  refine ⟨fun a ha => ?_, fun a hle hlt hgrid => ?_, fun _ _ => ?_, fun op r _ hcopy => ?_⟩
  · rw [hbyte, if_neg ha.ne]
  · rw [hgroup a hle hlt hgrid, hbyte, if_pos rfl]
  · rw [hbyte, if_pos rfl]
  · rw [hcopy, Instr.operands_copy] at hi
    cases hi

/-- A copy of a run that the encoder matched. -/
theorem reproduced_of_copy {e d v : State} {op : CopyOp} {r : Run} {src : Nat} (h : e.Encoding)
    (hp : e.phase = .mainLoop) (hm : Mirrors e d) (hsrc : sourceOffset op e.bpp e.lineBytes e.cur = some src)
    (hbehind : src < e.cur)
    (hmatch : ∀ j < (runLen r).toNat * e.bpp, e.canvasByte (src + j) = e.canvasByte (e.cur + j))
    (hcanvas : v.canvas = copyForward d.canvas src e.cur ((runLen r).toNat * e.bpp)) :
    Reproduced e d (.copy op r) (e.cur + (runLen r).toNat * e.bpp) v := by
  obtain ⟨_, _, hgrid⟩ := h.cursor.2 hp
  have hcopied : ∀ j < (runLen r).toNat * e.bpp,
      d.canvasByte (src + j % (e.cur - src)) = e.canvasByte (src + j % (e.cur - src)) →
      v.canvasByte (e.cur + j) = e.canvasByte (e.cur + j) := fun j hj hbyte => by
    rw [State.canvasByte, hcanvas, copyForward_period _ hbehind hj]
    exact hbyte.trans (canvasAt_period_of_match hbehind hmatch hj).symm
  refine ⟨fun a ha => ?_, fun a hle hlt ha => ?_, fun x hraw => ?_, fun op' r' src' hcopy hsrc' => ?_⟩
  · rw [State.canvasByte, hcanvas]
    exact copyForward_outside _ _ _ _ _ (.inl ha)
  · -- the source of a byte on the grid is on the grid, behind the cursor
    obtain ⟨j, rfl⟩ := Nat.exists_eq_add_of_le hle
    have hj := Nat.mod_lt j (Nat.sub_pos_of_lt hbehind)
    refine hcopied j (by omega) (hm.canvas _ (by omega) ?_)
    simp only [← Nat.dvd_iff_mod_eq_zero] at hgrid ha ⊢
    have hsource : e.bpp ∣ src := Nat.dvd_of_mod_eq_zero
      (sourceOffset_mod e.lineBytes_mod_bpp (Nat.mod_eq_zero_of_dvd hgrid) hsrc)
    exact hsource.add ((Nat.dvd_mod_iff (Nat.dvd_sub hgrid hsource)).2 ((Nat.dvd_add_right hgrid).1 ha))
  · have hnone := congrArg Instr.operands hraw
    rw [Instr.operands_copy] at hnone
    cases hnone
  · obtain ⟨rfl, rfl⟩ := Instr.copy_inj hcopy
    cases hsrc.symm.trans hsrc'
    exact hcopied

/-- The decoder's copy of a run that the encoder matched. -/
theorem Mirrors.exec_copy {e d : State} {op : CopyOp} {n src : Nat} (hm : Mirrors e d) (h : e.Encoding)
    (hp : e.phase = .mainLoop) (hsrc : sourceOffset op e.bpp e.lineBytes e.cur = some src) (hbehind : src < e.cur)
    (hmatch : ∀ j < n * e.bpp, e.canvasByte (src + j) = e.canvasByte (e.cur + j)) (hfit : e.cur + n * e.bpp ≤ e.size) :
    ∃ v, exec (.copy op (canonicalRun n)) d = .next (loopTest v) ∧ Executed d (e.cur + n * e.bpp) e.dict v ∧
      Reproduced e d (.copy op (canonicalRun n)) (e.cur + n * e.bpp) v := by
  have hn : n < 2 ^ 32 := by
    have hle := Nat.le_of_mul_le_mul_right ((Nat.le_add_left _ _).trans hfit : _ ≤ e.pixels * e.bpp) h.bpp_pos
    exact hle.trans_lt e.pixels_lt
  obtain ⟨r, hr, hrun⟩ : ∃ r, canonicalRun n = r ∧ (runLen r).toNat = n := ⟨_, rfl, toNat_runLen_canonicalRun hn⟩
  subst hrun
  have hsrc' : sourceOffset op d.bpp d.lineBytes d.cur = some src := by rwa [hm.bpp_eq, hm.lineBytes_eq, hm.cur]
  have hfit' : d.cur + (runLen r).toNat * d.bpp ≤ d.size := by rwa [hm.cur, hm.bpp_eq, hm.size_eq]
  rw [hr, Machine.exec_copy]
  refine ⟨_, copyRun_of_fits hsrc' hfit' fun _ => by rw [hm.cur] at hfit'; omega,
    ⟨⟨rfl, rfl, rfl, rfl, rfl, rfl, rfl, rfl⟩, fun _ h => h.congr rfl rfl rfl rfl rfl, ?_, hm.dict⟩,
    reproduced_of_copy h hp hm hsrc hbehind hmatch ?_⟩
  · rw [hm.cur, hm.bpp_eq]
  · rw [hm.cur, hm.bpp_eq]

/-- The reference byte of both engines is byte 0 of the group before the cursor (10_state R29). -/
theorem Mirrors.reference {e d : State} (hm : Mirrors e d) (h : e.Encoding) (hp : e.phase = .mainLoop) :
    d.canvasByte (d.cur - d.bpp) = e.canvasByte (e.cur - e.bpp) := by
  obtain ⟨_, hprod, hgrid⟩ := h.cursor.2 hp
  have hbpp := h.bpp_pos
  rw [hm.cur, hm.bpp_eq]
  exact hm.canvas _ (by omega) (Nat.mod_eq_zero_of_dvd (Nat.dvd_sub (Nat.dvd_of_mod_eq_zero hgrid) (dvd_refl _)))

/-- LIT, and DIC, which has recorded its slot index, when they give the byte at the encoder's cursor. -/
theorem Mirrors.writePixel {e d : State} {i : Instr} {r v : Byte} {value : Byte → Byte} (hm : Mirrors e d) (h : e.Encoding)
    (hp : e.phase = .mainLoop) (hr : e.canvasByte (e.cur - e.bpp) = r) (hv : e.canvasByte e.cur = v)
    (hvalue : value r = v) (hi : i.operands = none) (k : BitVec 3) :
    ∃ u, writePixel value { d with slot := k } = .next (loopTest u) ∧
      Executed d (e.cur + e.bpp) (update e.dict r v) u ∧ Reproduced e d i (e.cur + e.bpp) u := by
  obtain ⟨hlt, hprod, hgrid⟩ := h.cursor.2 hp
  have hle : d.bpp ≤ d.cur := by rw [hm.bpp_eq, hm.cur]; omega
  have hlt' : d.cur < d.size := by rwa [hm.size_eq, hm.cur]
  refine ⟨_, writePixel_of_bounds (s := { d with slot := k }) (r := r) value hle hlt' ((hm.reference h hp).trans hr),
    ⟨⟨rfl, rfl, rfl, rfl, rfl, rfl, rfl, rfl⟩, fun _ h => h.congr rfl rfl rfl rfl rfl, ?_, ?_⟩,
    reproduced_of_write hm.cur (fun a hle hlt ha => eq_of_grid hgrid ha hle hlt) hi ?_⟩
  · rw [← hm.cur, ← hm.bpp_eq]; rfl
  · rw [← hm.dict, hvalue]
  · rw [hvalue, hv]

/-- The decoder has a next state on the operation that the encoder emitted, and reproduces what it encodes. -/
theorem Emission.exec {e d : State} {i : Instr} {c : Nat} {dict : Dict} (hi : Emission e i c dict) (h : e.Encoding)
    (hm : Mirrors e d) : ∃ v, exec i d = .next (loopTest v) ∧ Executed d c dict v ∧ Reproduced e d i c v := by
  cases hi with
  | raw hp =>
    have hlt : d.cur < d.size := by
      rw [hm.cur, hm.size_eq]
      exact (h.cursor.1 hp).trans_le e.prefixBytes_le_size
    exact ⟨_, writeRaw_of_cur_lt_size (e.canvasByte e.cur) hlt,
      ⟨⟨rfl, rfl, rfl, rfl, rfl, rfl, rfl, rfl⟩, fun _ h => h.congr rfl rfl rfl rfl rfl, congrArg (· + 1) hm.cur,
        hm.dict⟩,
      reproduced_of_write hm.cur (fun a hle hlt _ => by omega) rfl rfl⟩
  | copy hp hsrc hbehind hmatch _ hfit => exact hm.exec_copy h hp hsrc hbehind hmatch hfit
  | @pixel i r v hp hr hv hi hfit =>
    rcases hi with rfl | ⟨k, rfl, hk⟩
    · exact hm.writePixel (value := fun _ => v) h hp hr hv rfl rfl d.slot
    · exact hm.writePixel (value := fun r => lookup d.dict r k) h hp hr hv (by rwa [hm.dict]) rfl k

/-! ## The step of the decoder -/

@[simp] theorem loopTest_canvasByte (s : State) (a : Nat) : (loopTest s).canvasByte a = s.canvasByte a := by
  rw [State.canvasByte, loopTest_canvas]; rfl

theorem loopTest_phase_congr {s t : State} (hphase : t.phase = s.phase) (hcur : t.cur = s.cur) (hsize : t.size = s.size)
    (hprefix : t.prefixBytes = s.prefixBytes) : (loopTest t).phase = (loopTest s).phase := by
  rcases loopTest_cases s with ⟨e, hs, hs'⟩ | ⟨e, hp, hge, hlt⟩ | ⟨e, hfull, hp⟩ <;> rw [e]
  · rw [loopTest_of_continuing, hphase]
    · rwa [hphase, hcur, hprefix]
    · rwa [hphase, hcur, hsize]
  · rw [loopTest_of_prefix_complete (hphase.trans hp) (by rwa [hprefix, hcur]) (by rwa [hcur, hsize])]
  · rw [loopTest_of_canvas_full (by rwa [hphase]) (by rwa [hcur, hsize]), finish_phase, finish_phase]

/-- The loop tests of both engines are the same tests (R31). -/
theorem Mirrors.loopTest {e d : State} (h : Mirrors e d) : Mirrors (loopTest e) (loopTest d) where
  width := by simpa using h.width
  height := by simpa using h.height
  bpp := by simpa using h.bpp
  encoding := by simpa using h.encoding
  decoding := by simpa using h.decoding
  phase := loopTest_phase_congr h.phase h.cur h.size_eq h.prefixBytes_eq
  cur := by simpa using h.cur
  dict := by simpa using h.dict
  canvas := by simpa using h.canvas

/-- The encoder writes no canvas byte (20_memory R60). -/
theorem Emitted.canvasByte {e u : State} {i : Instr} {c : Nat} {d : Dict} (h : Emitted e i c d u) (a : Nat) :
    u.canvasByte a = e.canvasByte a := by rw [State.canvasByte, h.canvas]; rfl

/-- The work of the emitted operation leads both engines to the same place. -/
theorem Mirrors.work {e d u v : State} {i : Instr} {c : Nat} {dict : Dict} (h : Mirrors e d) (hu : Emitted e i c dict u)
    (hv : Executed d c dict v) (hr : Reproduced e d i c v) : Mirrors u v where
  width := hv.setup.cfgWidth.trans (h.width.trans hu.setup.cfgWidth.symm)
  height := hv.setup.cfgHeight.trans (h.height.trans hu.setup.cfgHeight.symm)
  bpp := hv.setup.cfgBpp.trans (h.bpp.trans hu.setup.cfgBpp.symm)
  encoding := hu.setup.cfgMode.trans h.encoding
  decoding := hv.setup.cfgMode.trans h.decoding
  phase := hv.setup.phase.trans (h.phase.trans hu.setup.phase.symm)
  cur := hv.cur.trans hu.cur.symm
  dict := hv.dict.trans hu.dict.symm
  canvas a ha hgrid := by
    rw [hu.cur] at ha
    rw [State.bpp_congr hu.setup.cfgBpp] at hgrid
    rw [hu.canvasByte]
    rcases Nat.lt_or_ge a e.cur with hbelow | hge
    · rw [hr.below a hbelow, h.canvas a hbelow hgrid]
    · exact hr.groups a hge ha hgrid

/-- A decode pass at the same place, with the bits of the emitted operation before it, executes the operation, passes its bits
and is at the same place again (R230). -/
theorem Mirrors.step {e d u : State} {i : Instr} {c : Nat} {dict : Dict} {rest : List Bool} (hm : Mirrors e d)
    (h : e.Encoding) (hi : Emission e i c dict) (hu : Emitted e i c dict u) (hd : d.Before (encode i ++ rest)) :
    ∃ d', step d = .next d' ∧ Mirrors (Machine.loopTest u) d' ∧ d'.Before rest ∧ Reproduced e d i c d' := by
  have hdecode : decode d.part d.remainingBits = .ok (i, rest) := by
    rw [hm.part, ← hi.part, hd.bits]
    exact decode_encode_append hi.wellFormed rest
  obtain ⟨t, hstep, ht, hreader, _, hrest, _⟩ :=
    stepRunsDecodedInstruction d i rest (hm.running h) (hm.unfinished h) hm.decoding hd.reader hdecode
  have hmt : Mirrors e t := by
    rw [ht]
    exact { hm with }
  have hcanvas (a : Nat) : t.canvasByte a = d.canvasByte a := by rw [ht]; rfl
  obtain ⟨v, hexec, hv, hr⟩ := hi.exec h hmt
  refine ⟨_, hstep.trans hexec, (hmt.work hu hv hr).loopTest, ?_, ?_⟩
  · exact (hv.before rest ⟨hreader, hrest⟩).congr (by simp) (by simp [State.streamLen]) (by simp) (by simp) (by simp)
  · obtain ⟨hbelow, hgroups, hraw, hcopied⟩ := hr
    simp only [hcanvas] at hbelow hcopied
    constructor <;> simpa only [loopTest_canvasByte]

/-! ## The padding of the last byte (40_bit_primitives R126) -/

/-- What the encoder's loop tests write: nothing, or the zeros of the flush that ends the pass. -/
theorem Emission.padding {e u : State} {i : Instr} {c : Nat} {dict : Dict} (hi : Emission e i c dict)
    (hu : Emitted e i c dict u) (h : e.Encoding) :
    ∃ pad < 8, ((loopTest u).phase ≠ .done → pad = 0) ∧
      (loopTest u).writtenBits = e.writtenBits ++ encode i ++ List.replicate pad false := by
  rw [← hu.bits]
  rcases hi.ends hu h with ⟨_, hend⟩ | ⟨_, hend⟩
  · exact ⟨0, by decide, fun _ => rfl, by rw [hend]; exact (List.append_nil _).symm⟩
  · refine ⟨(8 - u.wCnt.toNat) % 8, Nat.mod_lt _ (by decide), fun hnot => absurd (by rw [hend]) hnot, ?_⟩
    rw [hend]
    exact flush_writtenBits u

end Sys2Proof.Machine
end

section
/-! PROOFS. The obligation about the two engines side by side (44_encoder, section 4). -/

namespace Sys2Proof.Machine

/-- Settles O56: the encoder's step emits one operation, and the decoder's step on it goes to the same place. -/
theorem decoderMirrorsEncoderStep : Obligations.DecoderMirrorsEncoderStep := by
  intro e e' hinv hrun hmode hstep
  have h := hinv.toEncoding hrun hmode
  obtain ⟨i, c, dict, u, hi, hu, hemit⟩ := h.step_emits
  obtain rfl : loopTest u = e' := Host.Outcome.next.inj (hemit.symm.trans hstep)
  obtain ⟨pad, hpad, hdone, hbits⟩ := hi.padding hu h
  refine ⟨i, pad, hi.wellFormed, hpad, hdone, hbits, fun d rest hd hm hrest => ?_⟩
  obtain ⟨d', hd', hm', hbefore, hr⟩ := hm.step h hi hu ⟨hd.reader (hm.running h) hm.decoding, hrest⟩
  exact ⟨d', hd', hm', hbefore.bits, hr.raw, hr.copied⟩

end Sys2Proof.Machine
end

section
/-! SUPPORT. A whole encode pass and the decode pass over its output (44_encoder R229, R231, R232). -/

namespace Sys2Proof.Machine

/-! ## A decode pass that follows an encode pass -/

/-- A decode pass at the same place as an encode pass: it has `bits` before it, and has reproduced the NPRE
raw bytes as far as they are behind the cursor (R232). -/
structure Tracks (e d : State) (bits : List Bool) : Prop where
  mirrors : Mirrors e d
  before : d.Before bits
  literal : ∀ a < e.cur, a < e.prefixBytes → d.canvasByte a = e.canvasByte a

/-- A step of both passes; LOOP passes none of the NPRE raw bytes (R34), and PREFIX reproduces each. -/
theorem Tracks.step {e d u : State} {i : Instr} {c : Nat} {dict : Dict} {rest : List Bool}
    (ht : Tracks e d (encode i ++ rest)) (h : e.Encoding) (hi : Emission e i c dict) (hu : Emitted e i c dict u) :
    ∃ d', step d = .next d' ∧ Tracks (loopTest u) d' rest := by
  obtain ⟨d', hd', hm, hbefore, hr⟩ := ht.mirrors.step h hi hu ht.before
  refine ⟨d', hd', hm, hbefore, fun a ha hprefix => ?_⟩
  rw [loopTest_cur, hu.cur] at ha
  rw [loopTest_prefixBytes, State.prefixBytes_congr hu.setup.cfgWidth hu.setup.cfgHeight hu.setup.cfgBpp] at hprefix
  rw [loopTest_canvasByte, hu.canvasByte]
  rcases Nat.lt_or_ge a e.cur with hbelow | hge
  · rw [hr.below a hbelow]
    exact ht.literal a hbelow hprefix
  · cases hi with
    | raw hp =>
      obtain rfl : a = e.cur := by omega
      exact hr.raw _ rfl
    | copy hp | pixel hp =>
      obtain ⟨_, hprod, _⟩ := h.cursor.2 hp
      have hle : e.prefixBytes ≤ 2 * e.bpp := Nat.min_le_left _ _
      omega

/-! ## The whole pass -/

/-- The encode pass at `e` ends normally in `t` after `k` steps, having written `bits` and filled whole bytes with them; and a
decode pass at the same place with `bits` before it ends at the same place as `t`, up to seven zero bits unread. -/
structure RoundTrip (k : Nat) (e t : State) (bits : List Bool) : Prop where
  run : steps k e = .next t
  done : t.phase = .done
  full : t.cur = t.size
  flushed : t.wCnt = 0
  written : t.writtenBits = e.writtenBits ++ bits
  image : t.cfgWidth = e.cfgWidth ∧ t.cfgHeight = e.cfgHeight ∧ t.cfgBpp = e.cfgBpp ∧ t.canvas = e.canvas
  decodes : ∀ d, Tracks e d bits → ∃ u pad, steps k d = .next u ∧ pad < 8 ∧ Tracks t u (List.replicate pad false)

theorem RoundTrip.refl {e : State} (hdone : e.phase = .done) (hfull : e.cur = e.size) (hflushed : e.wCnt = 0) :
    RoundTrip 0 e e [] :=
  ⟨rfl, hdone, hfull, hflushed, (List.append_nil _).symm, ⟨rfl, rfl, rfl, rfl⟩,
    fun d hd => ⟨d, 0, rfl, by decide, hd⟩⟩

theorem Emitted.image {e u : State} {i : Instr} {c : Nat} {d : Dict} (h : Emitted e i c d u) :
    (loopTest u).cfgWidth = e.cfgWidth ∧ (loopTest u).cfgHeight = e.cfgHeight ∧ (loopTest u).cfgBpp = e.cfgBpp ∧
      (loopTest u).canvas = e.canvas := by
  simp [h.setup.cfgWidth, h.setup.cfgHeight, h.setup.cfgBpp, h.canvas]

/-- The last step of a pass, with the zeros of the flush (R228). -/
theorem RoundTrip.last {e u : State} {i : Instr} {c : Nat} {d : Dict} (h : e.Encoding) (hi : Emission e i c d)
    (hu : Emitted e i c d u) (hstep : step e = .next (loopTest u)) (hfull : u.cur = u.size)
    (hend : loopTest u = { flush u with phase := .done }) :
    ∃ bits, RoundTrip 1 e (loopTest u) bits := by
  obtain ⟨pad, hpad, _, hbits⟩ := hi.padding hu h
  refine ⟨encode i ++ List.replicate pad false, steps_succ hstep 0, by rw [hend], by simpa using hfull,
    by rw [hend]; exact flush_wCnt u, by rw [hbits, List.append_assoc], hu.image, fun d' hd => ?_⟩
  obtain ⟨v, hv, ht⟩ := hd.step h hi hu
  exact ⟨v, pad, steps_succ hv 0, hpad, ht⟩

/-- A step that goes on, before the rest of the pass. -/
theorem RoundTrip.cons {k : Nat} {e u t : State} {i : Instr} {c : Nat} {d : Dict} {bits : List Bool} (h : e.Encoding)
    (hi : Emission e i c d) (hu : Emitted e i c d u) (hstep : step e = .next (loopTest u)) (hgoes : (loopTest u).Encoding)
    (hrest : RoundTrip k (loopTest u) t bits) : RoundTrip (k + 1) e t (encode i ++ bits) := by
  obtain ⟨pad, hpad, hnone, hbits⟩ := hi.padding hu h
  obtain ⟨hrun, hdone, hfull, hflushed, hwritten, ⟨hw, hh, hp, hc⟩, hdecodes⟩ := hrest
  obtain ⟨hw', hh', hp', hc'⟩ := hu.image
  refine ⟨(steps_succ hstep k).trans hrun, hdone, hfull, hflushed, ?_,
    ⟨hw.trans hw', hh.trans hh', hp.trans hp', hc.trans hc'⟩, fun d' hd => ?_⟩
  · have hzero := hnone fun hphase => by
      have hrunning := hgoes.running
      simp [State.running, hphase] at hrunning
    rw [hwritten, hbits, hzero, List.replicate_zero, List.append_nil, List.append_assoc]
  · obtain ⟨v, hv, ht⟩ := hd.step h hi hu
    obtain ⟨w, pad, hw, hpad, htw⟩ := hdecodes v ht
    exact ⟨w, pad, (steps_succ hv k).trans hw, hpad, htw⟩

/-- Every encode pass ends within the steps it has left, and a decode pass can follow it to its end (R229, R230). -/
theorem State.Encoding.roundTrip {e : State} (h : e.Encoding) : ∃ k t bits, k ≤ e.stepsLeft ∧ RoundTrip k e t bits := by
  induction hn : e.stepsLeft using Nat.strong_induction_on generalizing e with
  | _ n ih =>
    subst hn
    obtain ⟨i, c, d, u, hi, hu, hstep⟩ := h.step_emits
    obtain ⟨_, hless, _⟩ := hi.advances h hu.cur hu.setup
    rcases hi.ends hu h with ⟨hgoes, hend⟩ | ⟨hfull, hend⟩
    · have hless' : (loopTest u).stepsLeft < e.stepsLeft := by rw [hend]; exact hless
      obtain ⟨k, t, bits, hk, hrest⟩ := ih _ hless' hgoes rfl
      exact ⟨k + 1, t, _, by omega, hrest.cons h hi hu hstep hgoes⟩
    · obtain ⟨bits, hlast⟩ := RoundTrip.last h hi hu hstep hfull hend
      exact ⟨1, _, bits, by omega, hlast⟩

theorem State.stepsLeft_le {s : State} (hp : 0 < s.bpp) : s.stepsLeft ≤ s.prefixBytes + s.pixels := by
  have hdiv : (s.size - s.cur) / s.bpp ≤ s.pixels :=
    (Nat.div_le_div_right (Nat.sub_le _ _)).trans (Nat.mul_div_cancel _ hp).le
  unfold State.stepsLeft
  omega

/-! ## From START -/

theorem startEncode_roundTrip {s : State} (hmode : s.cfgMode = .encode) (hlegal : s.configLegal = true) :
    ∃ k t bits, RoundTrip k (startEncode s) t bits := by
  rcases startEncode_begins hmode hlegal with h | ⟨hsize, hdone⟩
  · obtain ⟨k, t, bits, _, h⟩ := h.roundTrip
    exact ⟨k, t, bits, h⟩
  · exact ⟨0, _, _, .refl hdone hsize.symm rfl⟩

theorem State.starting.step_decode {s : State} (h : s.starting) (hmode : s.cfgMode = .decode) :
    step s = .next (startDecode (dropStart s)) := by
  rw [h.step_eq, startPass, dropStart_cfgMode, hmode]

/-- Both passes start at the same place (70_reset R291). -/
theorem start_tracks {e d : State} {bits : List Bool} (hw : d.cfgWidth = e.cfgWidth) (hh : d.cfgHeight = e.cfgHeight)
    (hp : d.cfgBpp = e.cfgBpp) (he : e.cfgMode = .encode) (hd : d.cfgMode = .decode)
    (hbits : (startDecode d).remainingBits = bits) : Tracks (startEncode e) (startDecode d) bits where
  mirrors := ⟨hw, hh, hp, he, hd, by rw [startDecode_phase, startEncode_phase, State.size_congr hw hh hp], rfl, rfl,
    fun a ha => absurd ha (Nat.not_lt_zero a)⟩
  before := ⟨⟨Nat.zero_le _, Nat.zero_le _, (Nat.mod_one _).symm⟩, hbits⟩
  literal a ha := absurd ha (Nat.not_lt_zero a)

end Sys2Proof.Machine
end

section
/-! PROOFS. The obligations about whole passes (44_encoder, section 4). -/

namespace Sys2Proof.Machine

/-- Settles O50: each step goes on by a raw byte or a pixel-group at least, and none stops or faults. -/
theorem encodePassEnds : Obligations.EncodePassEnds := by
  intro s hinv hrun hmode
  have h := hinv.toEncoding hrun hmode
  refine ⟨?_, fun k => ?_⟩
  · obtain ⟨k, t, _, hk, hend⟩ := h.roundTrip
    exact ⟨k, t, hk.trans (State.stepsLeft_le h.bpp_pos), hend.run, hend.done⟩
  · obtain ⟨t, ht, hor⟩ := steps_of_progress (fun _ => State.EncodingOrDone.progress) k (.inl h)
    refine ⟨t, ht, fun hfault => ?_⟩
    rcases hor with hgoes | ⟨hdone, _⟩
    · have hrunning := hgoes.running
      simp [State.running, hfault] at hrunning
    · cases hfault.symm.trans hdone

/-- Settles O58: the decode pass stands before what the encode pass wrote, and follows it to its end. -/
theorem everyRoundTripKeepsFirstBytes : Obligations.EveryRoundTripKeepsFirstBytes := by
  intro e hstarting hmode
  obtain ⟨_, _, hlegal⟩ := id hstarting
  obtain ⟨k, t, bits, hrun, hdone, hfull, hflushed, hwritten, ⟨hw, hh, hp, hcanvas⟩, hdecodes⟩ :=
    startEncode_roundTrip (s := dropStart e) hmode hlegal
  refine ⟨k + 1, t, Nat.succ_pos k, (steps_succ (hstarting.step_encode hmode) k).trans hrun, hdone, ?_⟩
  intro d hstarting' hmode' hbpp hwidth hheight hlen hbytes
  have hbefore : (startDecode (dropStart d)).remainingBits = bits := by
    have hread := remainingBits_eq_writtenBits (d := startDecode (dropStart d)) rfl hflushed hlen fun a ha =>
      hbytes a (ha.trans_eq hlen)
    exact hread.trans hwritten
  obtain ⟨u, pad, hrun', hpad, hm, hrest, hliteral⟩ :=
    hdecodes _ (start_tracks (e := dropStart e) (d := dropStart d) hwidth hheight hbpp hmode hmode' hbefore)
  have hsize : t.size = e.size := State.size_congr hw hh hp
  have hbyte (a : Nat) : t.canvasByte a = e.canvasByte a := by rw [State.canvasByte, hcanvas]; rfl
  refine ⟨k + 1, u, Nat.succ_pos k, (steps_succ (hstarting'.step_decode hmode') k).trans hrun', hm.phase.trans hdone,
    fun a ha => ?_, fun a ha hgrid => ?_, ?_, ?_⟩
  · rw [← hbyte]
    refine hliteral a ?_ (ha.trans_eq (State.prefixBytes_congr hw hh hp).symm)
    rw [hfull, hsize]
    exact ha.trans_le e.prefixBytes_le_size
  · rw [← hbyte]
    exact hm.canvas a (by rwa [hfull, hsize]) (by rwa [State.bpp_congr hp])
  · rw [hrest.bits, List.length_replicate]
    omega
  · rw [hrest.bits]
    exact fun b hb => List.eq_of_mem_replicate hb

/-- Settles O57: with one byte per pixel every byte is byte 0 of its pixel-group. -/
theorem roundTripOneBytePerPixel : Obligations.RoundTripOneBytePerPixel := by
  intro e hstarting hmode hbpp
  obtain ⟨k, t, hk, hrun, hdone, hdecodes⟩ := everyRoundTripKeepsFirstBytes e hstarting hmode
  refine ⟨k, t, hk, hrun, hdone, fun d hstarting' hmode' hbpp' hw hh hlen hbytes => ?_⟩
  obtain ⟨m, u, hm, hrun', hdone', _, hgroups, hleft, hzero⟩ :=
    hdecodes d hstarting' hmode' (hbpp'.trans hbpp.symm) hw hh hlen hbytes
  have hone : e.bpp = 1 := by rw [State.bpp, hbpp]; rfl
  exact ⟨m, u, hm, hrun', hdone', fun a ha => hgroups a ha (by rw [hone, Nat.mod_one]), hleft, hzero⟩

end Sys2Proof.Machine
end

section
/-! SUPPORT. The entry of FAULT (60_exceptions R260 to R267): the bits a cut operation leaves unread, and what a step that
enters FAULT has changed. -/

namespace Sys2Proof

/-- Reading from a list only takes bits off its front. -/
theorem listSource_keeps_suffix (bits : List Bool) : listSource.Keeps (· <:+ bits) where
  read n h rest hrest := by
    rcases listSource_read n h rest with ⟨_, e⟩ | ⟨_, e⟩ <;> rw [e]
    · exact hrest
    · exact (List.drop_suffix n rest).trans hrest
  setOpc _ _ h := h
  setFlag _ _ h := h

/-- The bits that a failing read found are the end of those given. -/
theorem suffix_of_decodePart_error {part : StreamPart} {bits left : List Bool}
    (e : decodePart listSource part bits = .error left) : left <:+ bits := by
  have h := decodePart_keeps (listSource_keeps_suffix bits) part List.suffix_rfl
  rwa [e] at h

end Sys2Proof

namespace Sys2Proof.Machine

/-! ## An operation cut off by the end of the stream (R261, 40_bit_primitives R124) -/

/-- Where the bits at BP end before an operation does, the fetch stops before the same bits. -/
theorem fetch_error_of_decodePart {s : State} {left : List Bool} (h : s.readerOk)
    (e : decodePart listSource s.part s.remainingBits = .error left) : ∃ t, fetch s = .error t ∧ t.Before left := by
  have hagrees := decodePart_agrees readerSource_agrees_listSource s.part (show s.Before _ from ⟨h, rfl⟩)
  change Reading.Agrees State.Before (fetch s) _ at hagrees
  rw [e] at hagrees
  generalize fetch s = r at hagrees
  cases hagrees with
  | error ht => exact ⟨_, rfl, ht⟩

/-- BP is the later, the fewer bits are left of one stream (10_state R27). -/
theorem bitPos_le_of_suffix {s t : State} (hs : s.readerOk) (ht : t.readerOk) (hlen : t.streamLen = s.streamLen)
    (h : t.remainingBits <:+ s.remainingBits) : s.bitPos ≤ t.bitPos := by
  have hcount := h.length_le
  rw [State.remainingBits, State.remainingBits, length_streamBits, length_streamBits, hlen] at hcount
  have hle := hs.bitPos_le
  have hle' := ht.bitPos_le
  omega

/-! ## Which steps enter FAULT -/

theorem loopTest_phase_ne_fault {s : State} (hrun : s.running = true) : (loopTest s).phase ≠ .fault := by
  rcases loopTest_cases s with ⟨e, _⟩ | ⟨e, _⟩ | ⟨e, _⟩ <;> rw [e]
  · rcases State.running_iff.1 hrun with hp | hp <;> simp [hp]
  · exact Phase.noConfusion
  · simp

/-- The one operation that raises a fault once its bits are read is a copy that overruns the canvas (R262). -/
theorem exec_fault {i : Instr} {s t : State} (hrun : s.running = true) (h : exec i s = .next t) (hp : t.phase = .fault) :
    ∃ n w src, t = raise .canvasOverrun { s with len := n, w := w, src := src } := by
  induction i using Instr.familyCases with
  | raw v =>
    obtain ⟨_, rfl⟩ := writeRaw_next h
    exact absurd hp (loopTest_phase_ne_fault hrun)
  | lit v =>
    obtain ⟨_, _, rfl⟩ := writePixel_next h
    exact absurd hp (loopTest_phase_ne_fault hrun)
  | dic k =>
    obtain ⟨_, _, rfl⟩ := writePixel_next (s := { s with slot := k }) h
    exact absurd hp (loopTest_phase_ne_fault hrun)
  | copy op r =>
    rw [exec_copy] at h
    obtain ⟨src, _, ⟨_, rfl⟩ | ⟨_, _, rfl⟩⟩ := copyRun_next h
    · exact ⟨_, _, _, rfl⟩
    · exact absurd hp (loopTest_phase_ne_fault hrun)

/-- `t` is `s` after the entry of FAULT: beside FAULTCODE and PHASE only the Bit Reader's registers and the transients OPC,
FLAG, LEN, W and SRC can differ (R260, R267). -/
def Faulted (s t : State) : Prop :=
  ∃ c p k b o f n w src, (c = .truncatedStream ∨ c = .canvasOverrun) ∧
    t = raise c { s with spos := p, bitCnt := k, bitBuf := b, opc := o, flag := f, len := n, w := w, src := src }

theorem decodeStep_faulted {s t : State} (hrun : s.running = true) (h : decodeStep s = .next t) (hp : t.phase = .fault) :
    Faulted s t := by
  rcases decodeStep_cases s with ⟨i, v, hf, e⟩ | ⟨v, hf, e⟩ <;> rw [e] at h
  · have hfetch := fetch_ok hf
    have hrun' : v.running = true := by rwa [State.running, hfetch.phase]
    obtain ⟨n, w, src, rfl⟩ := exec_fault hrun' h hp
    obtain ⟨p, k, b, o, f, rfl⟩ := hfetch.frame
    exact ⟨_, p, k, b, o, f, n, w, src, .inr rfl, rfl⟩
  · obtain ⟨p, k, b, o, f, rfl⟩ := (fetch_error hf).frame
    cases h
    exact ⟨_, p, k, b, o, f, s.len, s.w, s.src, .inl rfl, rfl⟩

theorem SameSetup.running {s t : State} (h : SameSetup s t) (hrun : s.running = true) : t.running = true := by
  rwa [State.running, h.phase]

/-- The encoder raises no fault (44_encoder R229): its steps end with the loop tests. -/
theorem encodeStep_phase_ne_fault {s t : State} (hrun : s.running = true) (h : encodeStep s = .next t) :
    t.phase ≠ .fault := by
  rcases encodeStep_cases s with ⟨hp, e⟩ | ⟨hp, u, hemit, e⟩ | ⟨_, f, _, e⟩ <;> rw [e] at h
  · obtain rfl := Host.Outcome.next.inj h
    exact loopTest_phase_ne_fault ((emitPrefixByte_works hp).setup.running hrun)
  · obtain rfl := Host.Outcome.next.inj h
    exact loopTest_phase_ne_fault ((emitOperation_works hp hemit).setup.running hrun)
  · cases h

/-- A step of a running pass that enters FAULT is a step of the decoder. -/
theorem step_faulted {s t : State} (hrun : s.running = true) (h : step s = .next t) (hp : t.phase = .fault) :
    s.cfgMode = .decode ∧ Faulted (dropStart s) t := by
  rcases step_cases s with ⟨_, _, hmode, e⟩ | ⟨_, _, _, e⟩ | ⟨_, _, e⟩ | ⟨hidle, _⟩
  · exact ⟨hmode, decodeStep_faulted (s := dropStart s) hrun (e ▸ h) hp⟩
  · exact absurd hp (encodeStep_phase_ne_fault (s := dropStart s) hrun (e ▸ h))
  · cases e.symm.trans h
    exact absurd hp (loopTest_phase_ne_fault (s := dropStart s) hrun)
  · simp [hrun] at hidle

end Sys2Proof.Machine
end

section
/-! SUPPORT. What the host's START and the host's writes do (10_state R33, 60_exceptions R270 to R274, 70_reset R292). -/

namespace Sys2Proof.Machine

/-! ## START -/

theorem dropStart_of_no_start {s : State} (h : s.ctrlStart = false) : dropStart s = s := by
  rw [dropStart, ← h]

theorem step_of_running {s : State} (hrun : s.running = true) : step s = passStep (dropStart s) := by
  rw [step, machineStep, if_pos hrun]

theorem State.configLegal_eq_false {s : State} (h : s.cfgBpp = 0 ∨ s.cfgBpp = 2) : s.configLegal = false := by
  rcases h with h | h <;> rw [State.configLegal, h] <;> rfl

theorem waitStep_of_illegal {s : State} (h : s.configLegal = false) : waitStep s = dropStart s := by
  rcases waitStep_cases s with ⟨_, hlegal, _⟩ | ⟨_, e⟩
  · simp [h] at hlegal
  · exact e

theorem hostStart_inv {s : State} (h : s.Inv) : (hostStart s).Inv := by
  unfold hostStart
  split
  · exact h
  · exact waitStep_inv { h with }

/-! ## Writes -/

theorem hostWrite_of_idle {s : State} (h : s.busy = false) (t : State) : hostWrite s t = .next t := by
  simp [hostWrite, h]

theorem State.running_of_not_busy {s : State} (h : s.busy = false) : s.running = false :=
  (Bool.or_eq_false_iff.1 h).1

/-- A host write keeps the invariant when it leaves the status and OUT alone and the memories it fills canonical: no pass
runs, so nothing else is asked of the state (R274). -/
theorem State.Inv.of_hostWrite {s u t : State} (h : s.Inv) (e : hostWrite s u = .next t) (hphase : u.phase = s.phase)
    (hfault : u.faultCode = s.faultCode) (hout : u.out = s.out) (hstream : Memory.wf u.stream)
    (hcanvas : Memory.wf u.canvas) : t.Inv := by
  rcases hostWrite_cases s u with ⟨_, e'⟩ | ⟨hidle, e'⟩ <;> rw [e'] at e <;> cases e
  have hrun : u.running = false := by
    rw [State.running, hphase]
    exact State.running_of_not_busy hidle
  exact .of_not_running hrun hstream hcanvas (hout ▸ h.outWf) (by rw [hphase, hfault]; exact h.faultCode)

theorem Memory.read?_writeBytes_inside (m : Memory) (a : Nat) {bytes : List Byte} {k : Nat} {v : Byte}
    (h : bytes[k]? = some v) : Memory.read? (Memory.writeBytes m a bytes) (a + k) = some v := by
  obtain ⟨hk, _⟩ := List.getElem?_eq_some_iff.1 h
  rw [Memory.read?_writeBytes, if_pos (by omega), Nat.add_sub_cancel_left, h]

theorem Memory.read?_writeBytes_outside (m : Memory) {a b : Nat} {bytes : List Byte} (h : b < a ∨ a + bytes.length ≤ b) :
    Memory.read? (Memory.writeBytes m a bytes) b = Memory.read? m b := by
  rw [Memory.read?_writeBytes, if_neg (by omega)]

/-- Filling STREAM (10_state R22). -/
theorem hostFillStream_of_idle {s : State} (h : s.busy = false) (a : Nat) (bytes : List Byte) :
    ∃ t, hostFillStream a bytes s = .next t ∧ t = { s with stream := t.stream } ∧
      (∀ k v, bytes[k]? = some v → t.streamByte (a + k) = v) ∧
      (∀ b, b < a ∨ a + bytes.length ≤ b → t.streamByte b = s.streamByte b) := by
  refine ⟨_, hostWrite_of_idle h _, rfl, fun k v hk => ?_, fun b hb => ?_⟩
  · rw [State.streamByte, Memory.read?_writeBytes_inside _ _ hk, Option.getD_some]
  · rw [State.streamByte, Memory.read?_writeBytes_outside _ hb, State.streamByte]

/-- Filling CANVAS (10_state R23). -/
theorem hostFillCanvas_of_idle {s : State} (h : s.busy = false) (a : Nat) (bytes : List Byte) :
    ∃ t, hostFillCanvas a bytes s = .next t ∧ t = { s with canvas := t.canvas } ∧
      (∀ k v, bytes[k]? = some v → t.canvasByte (a + k) = v) ∧
      (∀ b, b < a ∨ a + bytes.length ≤ b → t.canvasByte b = s.canvasByte b) := by
  refine ⟨_, hostWrite_of_idle h _, rfl, fun k v hk => ?_, fun b hb => ?_⟩
  · rw [State.canvasByte, canvasAt, Memory.read?_writeBytes_inside _ _ hk, Option.getD_some]
  · rw [State.canvasByte, canvasAt, Memory.read?_writeBytes_outside _ hb, State.canvasByte, canvasAt]

end Sys2Proof.Machine
end

section
/-! PROOFS. The obligations about faults, the host's START and its writes (60_exceptions). -/

namespace Sys2Proof.Machine

/-- Settles O32: the fetch stops before the bits that the failing read found, and those are the end of the bits at BP. -/
theorem truncatedOperationTakesFault : Obligations.TruncatedOperationTakesFault := by
  intro s left hrun hunf hmode hreader e
  have hbits : (dropStart s).remainingBits = s.remainingBits := remainingBits_congr rfl rfl rfl
  obtain ⟨u, hfetch, hu, hleft⟩ := fetch_error_of_decodePart (s := dropStart s) hreader (by rw [hbits]; exact e)
  have hframe := fetch_error hfetch
  have hlen : u.streamLen = s.streamLen := hframe.streamLen
  have hsuffix : u.remainingBits <:+ s.remainingBits := hleft ▸ suffix_of_decodePart_error e
  have hpos : s.bitPos ≤ u.bitPos := bitPos_le_of_suffix hreader hu hlen hsuffix
  refine ⟨raise .truncatedStream u, ?_, congrArg (raise .truncatedStream) hframe.eq_with, hu, ?_, hpos,
    hlen ▸ hu.bitPos_le⟩
  · rw [step_of_unfinished_decode hrun hunf hmode, decodeStep, hfetch]
  · rw [remainingBits_congr (s := u) (t := raise .truncatedStream u) rfl rfl rfl, hleft]

/-- Settles O33, from what the entry of FAULT leaves alone. -/
theorem faultingStepKeepsCanvasAndDictionary : Obligations.FaultingStepKeepsCanvasAndDictionary := by
  intro s t hrun h hp
  obtain ⟨hmode, _, _, _, _, _, _, _, _, _, hc, rfl⟩ := step_faulted hrun h hp
  exact ⟨hc, hmode, rfl, rfl, rfl, rfl, rfl, rfl, rfl, rfl, rfl⟩

/-- Settles O34, by induction on the number of steps. -/
theorem endedPassWaitsForStart : Obligations.EndedPassWaitsForStart := by
  intro s k hidle hstart
  have hstep : step s = .next s := by
    rw [step_of_waiting hidle, waitStep_of_no_start hstart, dropStart_of_no_start hstart]
  induction k with
  | zero => rfl
  | succ k ih => rw [steps_succ hstep, ih]

/-- Settles O46: of a waiting machine `State.Inv` asks canonical memories and a FAULTCODE that suits PHASE, which every write
keeps. -/
theorem hostWritesKeepInv : Obligations.HostWritesKeepInv := by
  refine ⟨fun s t h hwrite => ?_, fun s hidle => ⟨fun v => ?_, fun v => ?_, fun v => ?_, fun m => ?_, fun v => ?_,
    hostFillStream_of_idle hidle, hostFillCanvas_of_idle hidle⟩⟩
  · rcases hwrite with ⟨_, e⟩ | ⟨_, e⟩ | ⟨_, e⟩ | ⟨_, e⟩ | ⟨_, e⟩ | ⟨a, bs, e⟩ | ⟨a, bs, e⟩ | rfl
    iterate 5 · exact h.of_hostWrite e rfl rfl rfl h.streamWf h.canvasWf
    · exact h.of_hostWrite e rfl rfl rfl (Memory.writeBytes_wf h.streamWf a bs) h.canvasWf
    · exact h.of_hostWrite e rfl rfl rfl h.streamWf (Memory.writeBytes_wf h.canvasWf a bs)
    · exact hostStart_inv h
  iterate 5 · exact ⟨_, hostWrite_of_idle hidle _, rfl, hostRead_idle _ _ hidle⟩

/-- Settles O25: a copy that overruns takes the fault before it writes. -/
theorem copyOverrunTakesFault : Obligations.CopyOverrunTakesFault := by
  intro op r s src hsrc hover
  rw [exec_copy, copyRun_of_overrun hsrc hover]
  rfl

/-- Settles O37: a START that is not accepted is only consumed, and a running pass drops the command bit. -/
theorem refusedStartHasNoEffect : Obligations.RefusedStartHasNoEffect := by
  refine ⟨fun s hidle hbpp => ?_, fun s hrun => ⟨hostStart_refused (.inl hrun), ?_⟩, fun s => step_of_hostStart⟩
  · have hlegal := State.configLegal_eq_false hbpp
    refine ⟨?_, fun hstart => hostStart_refused (.inr ⟨hlegal, hstart⟩)⟩
    rw [step_of_waiting hidle, waitStep_of_illegal hlegal, dropStart]
  · have hdrop (b : Bool) : step { s with ctrlStart := b } = passStep (dropStart s) :=
      step_of_running (s := { s with ctrlStart := b }) hrun
    rw [hdrop, hdrop]

end Sys2Proof.Machine
end

section
/-! SUPPORT. The state that the host's START leaves (10_state R33, 70_reset R291), and what the host reads before, during and
after a pass (20_memory R71, 70_reset R294 to R298). -/

namespace Sys2Proof.Machine

/-! ## START -/

/-- The canvas of a legal configuration is empty when it has no columns or no rows (10_state R21). -/
theorem State.size_eq_zero_iff {s : State} (h : s.configLegal = true) :
    s.size = 0 ↔ s.cfgWidth = 0 ∨ s.cfgHeight = 0 := by
  have hbpp := State.bpp_pos_of_legal h
  have hzero (b : BitVec 16) : b.toNat = 0 ↔ b = 0 := BitVec.toNat_inj (y := 0)
  rw [State.size, Nat.mul_eq_zero, Nat.mul_eq_zero, hzero, hzero]
  exact or_iff_left hbpp.ne'

theorem startPass_of_decode {s : State} (h : s.cfgMode = .decode) : startPass s = startDecode s := by
  rw [startPass, h]

theorem startPass_of_encode {s : State} (h : s.cfgMode = .encode) : startPass s = startEncode s := by
  rw [startPass, h]

/-- An accepted START begins the pass whether or not the command bit was up. -/
theorem hostStart_of_legal {s : State} (hidle : s.running = false) (hlegal : s.configLegal = true) :
    hostStart s = startPass (dropStart s) := by
  have hstarting : State.starting { s with ctrlStart := true } := ⟨hidle, rfl, hlegal⟩
  exact Host.Outcome.next.inj ((step_of_hostStart hidle).symm.trans hstarting.step_eq)

/-- The two forms of an accepted START, the host's write and the step that finds the command bit up, reach one state. -/
theorem hostStart_and_step_of_startPass {s t : State} (hidle : s.running = false) (hlegal : s.configLegal = true)
    (h : startPass (dropStart s) = t) : hostStart s = t ∧ (s.ctrlStart = true → step s = .next t) := by
  refine ⟨(hostStart_of_legal hidle hlegal).trans h, fun hstart => ?_⟩
  have hstarting : s.starting := ⟨hidle, hstart, hlegal⟩
  rw [hstarting.step_eq, h]

/-! ## Writes of the configuration -/

/-- An accepted host write found no pass running and stored what it was given. -/
theorem hostWrite_next {s u t : State} (h : hostWrite s u = .next t) : s.busy = false ∧ t = u := by
  rcases hostWrite_cases s u with ⟨_, e⟩ | ⟨hidle, e⟩ <;> rw [e] at h <;> cases h
  exact ⟨hidle, rfl⟩

/-- An accepted write of a CFG register changes nothing but the configuration (10_state R20). -/
theorem eq_with_config_of_configWrite {s t : State}
    (h : (∃ v, hostWriteWidth v s = .next t) ∨ (∃ v, hostWriteHeight v s = .next t) ∨
      (∃ v, hostWriteBpp v s = .next t) ∨ (∃ m, hostWriteMode m s = .next t) ∨ (∃ v, hostWriteSlen v s = .next t)) :
    s.busy = false ∧ ∃ width height bpp mode slen, t = { s with
      cfgWidth := width, cfgHeight := height, cfgBpp := bpp, cfgMode := mode, cfgSlen := slen } := by
  rcases h with ⟨_, e⟩ | ⟨_, e⟩ | ⟨_, e⟩ | ⟨_, e⟩ | ⟨_, e⟩
  all_goals
    obtain ⟨hidle, rfl⟩ := hostWrite_next e
    exact ⟨hidle, _, _, _, _, _, rfl⟩

/-! ## Reads -/

theorem State.busy_of_running_or_start {s : State} (h : s.running = true ∨ s.ctrlStart = true) : s.busy = true :=
  Bool.or_eq_true_iff.2 h

theorem hostWrite_of_busy {s : State} (h : s.busy = true) (t : State) : hostWrite s t = .refused .hostWriteDuringPass :=
  if_pos h

/-- Two waiting machines that hold the same in an item show the host the same (20_memory R71). -/
theorem hostRead_eq_of_idle {α : Type} [Inhabited α] (item : HostItem) (x : α) {s t : State} (hs : s.busy = false)
    (ht : t.busy = false) : hostRead item x t = hostRead item x s :=
  (hostRead_idle item x ht).trans (hostRead_idle item x hs).symm

theorem hostReadUnlessFault_eq_of_idle {α : Type} [Inhabited α] (item : HostItem) (x : α) {s t : State}
    (hs : s.busy = false) (ht : t.busy = false) (hphase : t.phase = s.phase) (hfault : s.phase ≠ .fault) :
    hostReadUnlessFault item x t = hostReadUnlessFault item x s :=
  (hostReadUnlessFault_idle item x ht (hphase ▸ hfault)).trans (hostReadUnlessFault_idle item x hs hfault).symm

end Sys2Proof.Machine
end

section
/-! PROOFS. The obligations about reset, START and what the host reads (70_reset_and_hazards). -/

namespace Sys2Proof.Machine

/-- Settles O35: the pass that begins is a decode pass, and its canvas is empty when it has no columns or no rows. -/
theorem startBeginsDecodePass : Obligations.StartBeginsDecodePass := by
  intro s hidle hlegal hmode
  apply hostStart_and_step_of_startPass hidle hlegal
  rw [startPass_of_decode (s := dropStart s) hmode, ← if_congr (State.size_eq_zero_iff hlegal) rfl rfl]
  rfl

/-- Settles O36: the pass that begins is an encode pass, and its canvas is empty when it has no columns or no rows. -/
theorem startBeginsEncodePass : Obligations.StartBeginsEncodePass := by
  intro s hidle hlegal hmode
  apply hostStart_and_step_of_startPass hidle hlegal
  rw [startPass_of_encode (s := dropStart s) hmode, ← if_congr (State.size_eq_zero_iff hlegal) rfl rfl]
  rfl

/-- Settles O42: at reset no START is pending, so the step waits. -/
theorem resetIsIdleWithoutFault : Obligations.ResetIsIdleWithoutFault := by
  have hstep : step State.reset = .next State.reset := by
    rw [step_of_waiting rfl, waitStep_of_no_start rfl, dropStart_of_no_start rfl]
  exact ⟨rfl, rfl, rfl, rfl, hstep⟩

/-- Settles O47: every read goes through `hostRead` or `hostReadUnlessFault`, which ask only whether a pass is running or
pending and whether the last one faulted; a write of the configuration changes neither. -/
theorem hostSeesResultOnlyAtDone : Obligations.HostSeesResultOnlyAtDone := by
  refine ⟨fun s a hidle => ?_, fun s a r k hidle hfault => ?_, fun s a r k hfault => ?_,
    fun s t a r k hdone hwrite => ?_, fun s t a r k hpass => ?_, fun s => ⟨rfl, rfl⟩⟩
  · and_intros <;> exact hostRead_idle _ _ hidle
  · exact ⟨hostReadUnlessFault_idle _ _ hidle hfault, hostReadUnlessFault_idle _ _ hidle hfault⟩
  · exact ⟨hostReadUnlessFault_fault _ _ hfault, hostReadUnlessFault_fault _ _ hfault⟩
  · obtain ⟨hidle, _, _, _, _, _, rfl⟩ := eq_with_config_of_configWrite hwrite
    have hfault : s.phase ≠ .fault := by simp [hdone]
    refine ⟨hostReadUnlessFault_eq_of_idle _ _ hidle hidle rfl hfault, ?_, ?_,
      hostReadUnlessFault_eq_of_idle _ _ hidle hidle rfl hfault, ?_, ?_, ?_, ?_, ?_, ?_⟩ <;>
    exact hostRead_eq_of_idle _ _ hidle hidle
  · have hbusy := State.busy_of_running_or_start hpass
    refine ⟨?_, ?_, ?_, ?_, ?_, ?_, ?_, ?_, ?_, ?_, ?_, ?_, hostReadUnlessFault_busy _ _ hbusy,
      hostReadUnlessFault_busy _ _ hbusy, ?_, hostWrite_of_busy hbusy t⟩ <;> exact hostRead_busy _ _ hbusy

end Sys2Proof.Machine
end
